-- ==== Sys2Proof/Word.lean ====
section
/-! DEFINITION. The plain data of the VIQ Vision register codec: bytes and words, the opaque tokens, the mode
enumerations and the records the host presents and receives (`10_state.md` R21 to R25, `00_scope.md` R9, R10). -/

namespace Sys2Proof

/-- A byte, an unsigned integer 0 to 255 (R9). -/
abbrev Byte := BitVec 8

/-- A 16-bit pattern. As an `i16` its value is `.toInt` (R10). -/
abbrev Word16 := BitVec 16

/-- A 32-bit pattern. As an `i32` its value is `.toInt` (R10). -/
abbrev Word32 := BitVec 32

/-- An `f32`, carried as its 32-bit pattern; equality is equality of patterns (R10, R122). -/
abbrev F32 := BitVec 32

/-- An opaque identifier of one physical bus port (R25). The token is only a name: nothing computes with it. -/
structure Port where
  token : Nat
deriving DecidableEq, Repr, Inhabited

/-- The transport's opaque error value `e` (R282). The token is only a name: nothing looks inside. -/
structure TransportError where
  token : Nat
deriving DecidableEq, Repr, Inhabited

/-- `WhiteBalanceMode {Normal, Start, Manual}` (R24). -/
inductive WhiteBalanceMode where
  | normal
  | start
  | manual
deriving DecidableEq, Repr, Inhabited

/-- `LedMode {Auto, Manual}` (R24). -/
inductive LedMode where
  | auto
  | manual
deriving DecidableEq, Repr, Inhabited

/-- `RgbColor`: four unsigned byte channels (R23). -/
structure RgbColor where
  red : Byte
  green : Byte
  blue : Byte
  brightness : Byte
deriving DecidableEq, Repr, Inhabited

/-- The ten fields of `ClassifierSignature` (R22), over the type of `id`: a byte in the codec functions and on the
wire, a host integer as the operand of `setSignature` (D16). -/
structure SignatureOf (ι : Type) where
  id : ι
  range : F32
  uMin : Word32
  uMax : Word32
  uMean : Word32
  vMin : Word32
  vMax : Word32
  vMean : Word32
  mRgb : Word32
  mType : Word32
deriving DecidableEq, Repr, Inhabited

/-- The record as the codec functions take and give it: `id` is a `u8` (R22, R160). -/
abbrev ClassifierSignature := SignatureOf Byte

/-- The record as the host presents it to `setSignature`: `id` is a host integer (R202, R203). -/
abbrev HostSignature := SignatureOf Int

/-- The six fields `decodeRecord` writes (R143): a `DetectedObject` without `total`, which no rule writes (R145). -/
structure ObjectReading where
  signatureId : Word16
  x : Word16
  y : Word16
  width : Word16
  height : Word16
  angle : Word16
deriving DecidableEq, Repr, Inhabited

/-- `DetectedObject`: one entry of the caller's array, seven `i16` fields (R21). -/
structure DetectedObject where
  signatureId : Word16
  x : Word16
  y : Word16
  width : Word16
  height : Word16
  angle : Word16
  total : Word16
deriving DecidableEq, Repr, Inhabited

end Sys2Proof
end

