-- ==== Sys2Proof/Syntax.lean ====
section
/-! DEFINITION. The 32 operations of the block as syntax: one constructor per row of spec/opcode_table.json, in the
table's order, with the operands of the operation's rule. Pure codec functions first (R96), then the session
operations and discovery (R92). -/

namespace Sys2Proof

/-- One host request (R26): an operation and its operands. A buffer operand is a byte sequence of any length here;
`Instr.wellFormed` states the lengths the rules require. -/
inductive Instr where
  /-- R120. -/
  | pack32le (v : Word32)
  /-- R121. -/
  | unpack32le (b : List Byte)
  /-- R140. -/
  | packObjectRequest (signatureId : Word16)
  /-- R141. -/
  | decodeObjectList (buffer : List Byte) (maxCount : Nat) (requestedId : Word16)
  /-- R160. -/
  | encodeSignature (sig : ClassifierSignature)
  /-- R161. -/
  | decodeSignature (buffer : List Byte)
  /-- R163. -/
  | encodeSignatureSelect (id : Byte)
  /-- R164. -/
  | decodeSignaturePayload (payload : List Byte) (id : Byte)
  /-- R181. -/
  | encodeByte (v : Byte)
  /-- R181. -/
  | decodeByte (b : List Byte)
  /-- R182. -/
  | encodeWbSet (color : RgbColor)
  /-- R183. -/
  | decodeWbRgb (b : List Byte)
  /-- R184. -/
  | encodeLedSet (color : RgbColor)
  /-- R185. -/
  | decodeLedGet (b : List Byte)
  /-- R186. -/
  | encodeWbMode (mode : WhiteBalanceMode)
  /-- R187. -/
  | decodeWbMode (b : List Byte)
  /-- R188. -/
  | encodeLedMode (mode : LedMode)
  /-- R189. -/
  | decodeLedMode (b : List Byte)
  /-- R201. -/
  | getObjects (port : Port) (signatureId : Word16) (maxCount : Nat)
  /-- R202. -/
  | setSignature (port : Port) (sig : HostSignature)
  /-- R204. -/
  | getSignature (port : Port) (id : Int)
  /-- R231. -/
  | getBrightness (port : Port)
  /-- R232. -/
  | setBrightness (port : Port) (value : Byte)
  /-- R233. -/
  | getWhiteBalanceMode (port : Port)
  /-- R234. -/
  | setWhiteBalanceMode (port : Port) (mode : WhiteBalanceMode)
  /-- R235. -/
  | setWhiteBalance (port : Port) (color : RgbColor)
  /-- R236. -/
  | getWhiteBalance (port : Port)
  /-- R237. -/
  | getLedMode (port : Port)
  /-- R238. -/
  | setLedMode (port : Port) (mode : LedMode)
  /-- R239. -/
  | setLedColor (port : Port) (color : RgbColor)
  /-- R240. -/
  | getLedColor (port : Port)
  /-- R270. -/
  | findFirstSensor
deriving DecidableEq, Repr

end Sys2Proof
end

