-- ==== Sys2Proof/WellFormed.lean ====
section
/-! DEFINITION. Well-formed operations: every fixed-length buffer operand has the length its rule names. The object
list's buffer may have any length (its precondition is a matter of its meaning, U4). -/

namespace Sys2Proof

/-- The operand lengths the rules name as the domain of each codec function: R121, R161, R164, R181, R183, R185,
R187, R189. Every other operand is in range by its type. -/
def Instr.wellFormed : Instr → Bool
  | .pack32le _ => true
  | .unpack32le b => b.length == 4
  | .packObjectRequest _ => true
  | .decodeObjectList _ _ _ => true
  | .encodeSignature _ => true
  | .decodeSignature b => b.length == 37
  | .encodeSignatureSelect _ => true
  | .decodeSignaturePayload b _ => b.length == 36
  | .encodeByte _ => true
  | .decodeByte b => b.length == 1
  | .encodeWbSet _ => true
  | .decodeWbRgb b => b.length == 3
  | .encodeLedSet _ => true
  | .decodeLedGet b => b.length == 4
  | .encodeWbMode _ => true
  | .decodeWbMode b => b.length == 1
  | .encodeLedMode _ => true
  | .decodeLedMode b => b.length == 1
  | .getObjects _ _ _ => true
  | .setSignature _ _ => true
  | .getSignature _ _ => true
  | .getBrightness _ => true
  | .setBrightness _ _ => true
  | .getWhiteBalanceMode _ => true
  | .setWhiteBalanceMode _ _ => true
  | .setWhiteBalance _ _ => true
  | .getWhiteBalance _ => true
  | .getLedMode _ => true
  | .setLedMode _ _ => true
  | .setLedColor _ _ => true
  | .getLedColor _ => true
  | .findFirstSensor => true

end Sys2Proof
end

