-- ==== Sys2Proof/Decode.lean ====
section
/-! DEFINITION. The request image: how one host request is written as bytes, its decoder (total on any bytes, refusing
by name) and its encoder. The first three bytes are the descriptor word DESC of R91, least significant byte first:
the byte count, the register address, the kind. For a session or discovery operation DESC is that of its FIRST
transport call (R92). A codec function has no transport call; its image carries a descriptor no call can have, a
read of zero bytes, whose register field selects the function. Operands follow. The image form is the model's own (log
4): the hardware stores no requests (R65), and nothing of it is on any wire. -/

namespace Sys2Proof

/-- Why bytes are no request image. -/
inductive DecodeError where
  /-- The image ends before its descriptor or its operands do. -/
  | truncated
  /-- Bits 23:18 of the descriptor's three bytes are not zero (DESC has 18 bits, R91). -/
  | notADescriptor
  /-- No operation's first call has this descriptor (R91, R92; kind 11 among them). -/
  | noSuchOperation
  /-- The operand byte names no member of the mode enumeration (R24). -/
  | noSuchMode
  /-- Bytes other than zero follow the operands. -/
  | trailingBytes
deriving DecidableEq, Repr

/-- The operations by name alone: one per row of spec/opcode_table.json. -/
inductive Op where
  | pack32le | unpack32le | packObjectRequest | decodeObjectList
  | encodeSignature | decodeSignature | encodeSignatureSelect | decodeSignaturePayload
  | encodeByte | decodeByte | encodeWbSet | decodeWbRgb | encodeLedSet | decodeLedGet
  | encodeWbMode | decodeWbMode | encodeLedMode | decodeLedMode
  | getObjects | setSignature | getSignature
  | getBrightness | setBrightness | getWhiteBalanceMode | setWhiteBalanceMode | setWhiteBalance | getWhiteBalance
  | getLedMode | setLedMode | setLedColor | getLedColor
  | findFirstSensor
deriving DecidableEq, Repr

/-- A row of the operation map: `(DESC & mask) == pattern` selects it (R91). -/
structure Row where
  op : Op
  pattern : BitVec 18
  mask : BitVec 18
deriving DecidableEq, Repr

/-- The descriptor of an operation's first transport call, from R92's table. -/
def sessionRows : List Row :=
  [ ⟨.getObjects, 0x12402, 0x3FFFF⟩, ⟨.setSignature, 0x1AF25, 0x3FFFF⟩, ⟨.getSignature, 0x1AF01, 0x3FFFF⟩,
    ⟨.getBrightness, 0x0E201, 0x3FFFF⟩, ⟨.setBrightness, 0x1E201, 0x3FFFF⟩,
    ⟨.getWhiteBalanceMode, 0x0E301, 0x3FFFF⟩, ⟨.setWhiteBalanceMode, 0x1E301, 0x3FFFF⟩,
    ⟨.setWhiteBalance, 0x1E304, 0x3FFFF⟩, ⟨.getWhiteBalance, 0x0E403, 0x3FFFF⟩,
    ⟨.getLedMode, 0x0EB01, 0x3FFFF⟩, ⟨.setLedMode, 0x1EB01, 0x3FFFF⟩,
    ⟨.setLedColor, 0x1E705, 0x3FFFF⟩, ⟨.getLedColor, 0x0E704, 0x3FFFF⟩,
    ⟨.findFirstSensor, 0x20000, 0x30000⟩ ]

/-- The codec functions' selectors: DESIGN CHOICE of the model (log 4), a read of zero bytes with the selector in the
register field. -/
def codecRows : List Row :=
  [ ⟨.packObjectRequest, 0x00000, 0x3FFFF⟩, ⟨.pack32le, 0x00100, 0x3FFFF⟩, ⟨.unpack32le, 0x00200, 0x3FFFF⟩,
    ⟨.decodeObjectList, 0x00300, 0x3FFFF⟩, ⟨.encodeSignature, 0x00400, 0x3FFFF⟩,
    ⟨.decodeSignature, 0x00500, 0x3FFFF⟩, ⟨.encodeSignatureSelect, 0x00600, 0x3FFFF⟩,
    ⟨.decodeSignaturePayload, 0x00700, 0x3FFFF⟩, ⟨.encodeByte, 0x00800, 0x3FFFF⟩, ⟨.decodeByte, 0x00900, 0x3FFFF⟩,
    ⟨.encodeWbSet, 0x00A00, 0x3FFFF⟩, ⟨.decodeWbRgb, 0x00B00, 0x3FFFF⟩, ⟨.encodeLedSet, 0x00C00, 0x3FFFF⟩,
    ⟨.decodeLedGet, 0x00D00, 0x3FFFF⟩, ⟨.encodeWbMode, 0x00E00, 0x3FFFF⟩, ⟨.decodeWbMode, 0x00F00, 0x3FFFF⟩,
    ⟨.encodeLedMode, 0x01000, 0x3FFFF⟩, ⟨.decodeLedMode, 0x01100, 0x3FFFF⟩ ]

/-- Every row of the model's operation map. -/
def rows : List Row := sessionRows ++ codecRows

/-- Whether a descriptor selects a row (R91). -/
def Row.selects (r : Row) (d : BitVec 18) : Bool := (d &&& r.mask) == r.pattern

/-- The operation a descriptor selects. -/
def opOfDesc (d : BitVec 18) : Except DecodeError Op :=
  match rows.find? (fun r => r.selects d) with
  | some r => .ok r.op
  | none => .error .noSuchOperation

/-! ## Operand fields, read from the front -/

/-- One byte. -/
def takeByte : List Byte → Except DecodeError (Byte × List Byte)
  | [] => .error .truncated
  | b :: rest => .ok (b, rest)

/-- Exactly `n` bytes. -/
def takeBytes (n : Nat) (bs : List Byte) : Except DecodeError (List Byte × List Byte) :=
  if n ≤ bs.length then .ok (bs.take n, bs.drop n) else .error .truncated

/-- A 16-bit pattern, low byte first (R54). -/
def takeWord16 : List Byte → Except DecodeError (Word16 × List Byte)
  | b0 :: b1 :: rest => .ok (b1 ++ b0, rest)
  | _ => .error .truncated

/-- A 32-bit pattern, least significant byte first (R54). -/
def takeWord32 : List Byte → Except DecodeError (Word32 × List Byte)
  | b0 :: b1 :: b2 :: b3 :: rest => .ok (b3 ++ b2 ++ b1 ++ b0, rest)
  | _ => .error .truncated

/-- A natural number of any size: seven bits a byte, lowest first, bit 7 set on every byte but the last. -/
def takeNat : List Byte → Except DecodeError (Nat × List Byte)
  | [] => .error .truncated
  | b :: rest =>
    if b.toNat < 128 then .ok (b.toNat, rest)
    else
      match takeNat rest with
      | .ok (n, rest') => .ok (b.toNat - 128 + 128 * n, rest')
      | .error e => .error e

/-- The host integer a natural number stands for: even numbers are the non-negative integers. -/
def intOfNat (n : Nat) : Int := if n % 2 = 0 then (n / 2 : Nat) else -((n / 2 : Nat) : Int) - 1

/-- A host integer of any size. -/
def takeInt (bs : List Byte) : Except DecodeError (Int × List Byte) := do
  let (n, bs) ← takeNat bs
  return (intOfNat n, bs)

/-- A port token. -/
def takePort (bs : List Byte) : Except DecodeError (Port × List Byte) := do
  let (n, bs) ← takeNat bs
  return (⟨n⟩, bs)

/-- A colour, in the order of R23's fields. -/
def takeColor (bs : List Byte) : Except DecodeError (RgbColor × List Byte) := do
  let (red, bs) ← takeByte bs
  let (green, bs) ← takeByte bs
  let (blue, bs) ← takeByte bs
  let (brightness, bs) ← takeByte bs
  return (⟨red, green, blue, brightness⟩, bs)

/-- A member of `WhiteBalanceMode`, by its place in R24's list; the wire codes are parameters and play no part here. -/
def takeWbMode (bs : List Byte) : Except DecodeError (WhiteBalanceMode × List Byte) := do
  let (b, bs) ← takeByte bs
  if b = 0 then return (.normal, bs)
  else if b = 1 then return (.start, bs)
  else if b = 2 then return (.manual, bs)
  else .error .noSuchMode

/-- A member of `LedMode`, by its place in R24's list. -/
def takeLedMode (bs : List Byte) : Except DecodeError (LedMode × List Byte) := do
  let (b, bs) ← takeByte bs
  if b = 0 then return (.auto, bs)
  else if b = 1 then return (.manual, bs)
  else .error .noSuchMode

/-- The nine fields of a signature after its `id`, in the order of R83. -/
def takeSignature {ι : Type} (id : ι) (bs : List Byte) : Except DecodeError (SignatureOf ι × List Byte) := do
  let (range, bs) ← takeWord32 bs
  let (uMin, bs) ← takeWord32 bs
  let (uMax, bs) ← takeWord32 bs
  let (uMean, bs) ← takeWord32 bs
  let (vMin, bs) ← takeWord32 bs
  let (vMax, bs) ← takeWord32 bs
  let (vMean, bs) ← takeWord32 bs
  let (mRgb, bs) ← takeWord32 bs
  let (mType, bs) ← takeWord32 bs
  return (⟨id, range, uMin, uMax, uMean, vMin, vMax, vMean, mRgb, mType⟩, bs)

/-- The operation and its operands, from the bytes after the descriptor. -/
def takeOperands (op : Op) (bs : List Byte) : Except DecodeError (Instr × List Byte) :=
  match op with
  | .pack32le => do
    let (v, bs) ← takeWord32 bs
    return (.pack32le v, bs)
  | .unpack32le => do
    let (b, bs) ← takeBytes 4 bs
    return (.unpack32le b, bs)
  | .packObjectRequest => do
    let (id, bs) ← takeWord16 bs
    return (.packObjectRequest id, bs)
  | .decodeObjectList => do
    let (n, bs) ← takeNat bs
    let (buffer, bs) ← takeBytes n bs
    let (m, bs) ← takeNat bs
    let (id, bs) ← takeWord16 bs
    return (.decodeObjectList buffer m id, bs)
  | .encodeSignature => do
    let (id, bs) ← takeByte bs
    let (sig, bs) ← takeSignature id bs
    return (.encodeSignature sig, bs)
  | .decodeSignature => do
    let (b, bs) ← takeBytes 37 bs
    return (.decodeSignature b, bs)
  | .encodeSignatureSelect => do
    let (id, bs) ← takeByte bs
    return (.encodeSignatureSelect id, bs)
  | .decodeSignaturePayload => do
    let (b, bs) ← takeBytes 36 bs
    let (id, bs) ← takeByte bs
    return (.decodeSignaturePayload b id, bs)
  | .encodeByte => do
    let (v, bs) ← takeByte bs
    return (.encodeByte v, bs)
  | .decodeByte => do
    let (b, bs) ← takeBytes 1 bs
    return (.decodeByte b, bs)
  | .encodeWbSet => do
    let (c, bs) ← takeColor bs
    return (.encodeWbSet c, bs)
  | .decodeWbRgb => do
    let (b, bs) ← takeBytes 3 bs
    return (.decodeWbRgb b, bs)
  | .encodeLedSet => do
    let (c, bs) ← takeColor bs
    return (.encodeLedSet c, bs)
  | .decodeLedGet => do
    let (b, bs) ← takeBytes 4 bs
    return (.decodeLedGet b, bs)
  | .encodeWbMode => do
    let (m, bs) ← takeWbMode bs
    return (.encodeWbMode m, bs)
  | .decodeWbMode => do
    let (b, bs) ← takeBytes 1 bs
    return (.decodeWbMode b, bs)
  | .encodeLedMode => do
    let (m, bs) ← takeLedMode bs
    return (.encodeLedMode m, bs)
  | .decodeLedMode => do
    let (b, bs) ← takeBytes 1 bs
    return (.decodeLedMode b, bs)
  | .getObjects => do
    let (p, bs) ← takePort bs
    let (id, bs) ← takeWord16 bs
    let (m, bs) ← takeNat bs
    return (.getObjects p id m, bs)
  | .setSignature => do
    let (p, bs) ← takePort bs
    let (id, bs) ← takeInt bs
    let (sig, bs) ← takeSignature id bs
    return (.setSignature p sig, bs)
  | .getSignature => do
    let (p, bs) ← takePort bs
    let (id, bs) ← takeInt bs
    return (.getSignature p id, bs)
  | .getBrightness => do
    let (p, bs) ← takePort bs
    return (.getBrightness p, bs)
  | .setBrightness => do
    let (p, bs) ← takePort bs
    let (v, bs) ← takeByte bs
    return (.setBrightness p v, bs)
  | .getWhiteBalanceMode => do
    let (p, bs) ← takePort bs
    return (.getWhiteBalanceMode p, bs)
  | .setWhiteBalanceMode => do
    let (p, bs) ← takePort bs
    let (m, bs) ← takeWbMode bs
    return (.setWhiteBalanceMode p m, bs)
  | .setWhiteBalance => do
    let (p, bs) ← takePort bs
    let (c, bs) ← takeColor bs
    return (.setWhiteBalance p c, bs)
  | .getWhiteBalance => do
    let (p, bs) ← takePort bs
    return (.getWhiteBalance p, bs)
  | .getLedMode => do
    let (p, bs) ← takePort bs
    return (.getLedMode p, bs)
  | .setLedMode => do
    let (p, bs) ← takePort bs
    let (m, bs) ← takeLedMode bs
    return (.setLedMode p m, bs)
  | .setLedColor => do
    let (p, bs) ← takePort bs
    let (c, bs) ← takeColor bs
    return (.setLedColor p c, bs)
  | .getLedColor => do
    let (p, bs) ← takePort bs
    return (.getLedColor p, bs)
  | .findFirstSensor => .ok (.findFirstSensor, bs)

/-- The descriptor at the front of an image: byte count, register address, kind (R91), bits 23:18 zero. -/
def takeDesc : List Byte → Except DecodeError (BitVec 18 × List Byte)
  | len :: reg :: kind :: rest =>
    if kind.toNat < 4 then .ok (kind.extractLsb' 0 2 ++ reg ++ len, rest) else .error .notADescriptor
  | _ => .error .truncated

/-- One request image, whole: descriptor, operands, and nothing after them but zero padding. -/
def decode (image : List Byte) : Except DecodeError Instr := do
  let (d, bs) ← takeDesc image
  let op ← opOfDesc d
  let (i, rest) ← takeOperands op bs
  if rest.all (· == 0) then return i else .error .trailingBytes

/-! ## The encoder -/

/-- The operation's name. -/
def Instr.op : Instr → Op
  | .pack32le _ => .pack32le
  | .unpack32le _ => .unpack32le
  | .packObjectRequest _ => .packObjectRequest
  | .decodeObjectList _ _ _ => .decodeObjectList
  | .encodeSignature _ => .encodeSignature
  | .decodeSignature _ => .decodeSignature
  | .encodeSignatureSelect _ => .encodeSignatureSelect
  | .decodeSignaturePayload _ _ => .decodeSignaturePayload
  | .encodeByte _ => .encodeByte
  | .decodeByte _ => .decodeByte
  | .encodeWbSet _ => .encodeWbSet
  | .decodeWbRgb _ => .decodeWbRgb
  | .encodeLedSet _ => .encodeLedSet
  | .decodeLedGet _ => .decodeLedGet
  | .encodeWbMode _ => .encodeWbMode
  | .decodeWbMode _ => .decodeWbMode
  | .encodeLedMode _ => .encodeLedMode
  | .decodeLedMode _ => .decodeLedMode
  | .getObjects _ _ _ => .getObjects
  | .setSignature _ _ => .setSignature
  | .getSignature _ _ => .getSignature
  | .getBrightness _ => .getBrightness
  | .setBrightness _ _ => .setBrightness
  | .getWhiteBalanceMode _ => .getWhiteBalanceMode
  | .setWhiteBalanceMode _ _ => .setWhiteBalanceMode
  | .setWhiteBalance _ _ => .setWhiteBalance
  | .getWhiteBalance _ => .getWhiteBalance
  | .getLedMode _ => .getLedMode
  | .setLedMode _ _ => .setLedMode
  | .setLedColor _ _ => .setLedColor
  | .getLedColor _ => .getLedColor
  | .findFirstSensor => .findFirstSensor

/-- The descriptor an operation's image carries: its row's pattern. -/
def Op.desc (op : Op) : BitVec 18 :=
  match rows.find? (fun r => r.op == op) with
  | some r => r.pattern
  | none => 0

/-- The three descriptor bytes. -/
def descBytes (d : BitVec 18) : List Byte :=
  [d.extractLsb' 0 8, d.extractLsb' 8 8, (d.extractLsb' 16 2).setWidth 8]

/-- A 16-bit pattern, low byte first. -/
def word16Bytes (v : Word16) : List Byte := [v.extractLsb' 0 8, v.extractLsb' 8 8]

/-- A 32-bit pattern, least significant byte first. -/
def word32Bytes (v : Word32) : List Byte :=
  [v.extractLsb' 0 8, v.extractLsb' 8 8, v.extractLsb' 16 8, v.extractLsb' 24 8]

/-- The bytes of a natural number, at most `fuel` of them. -/
def natBytesUpTo : Nat → Nat → List Byte
  | 0, _ => []
  | fuel + 1, n =>
    if n < 128 then [BitVec.ofNat 8 n] else BitVec.ofNat 8 (128 + n % 128) :: natBytesUpTo fuel (n / 128)

/-- The bytes of a natural number: seven bits a byte, lowest first. -/
def natBytes (n : Nat) : List Byte := natBytesUpTo (n + 1) n

/-- The natural number that stands for a host integer. -/
def natOfInt : Int → Nat
  | .ofNat n => 2 * n
  | .negSucc n => 2 * n + 1

/-- The bytes of a host integer. -/
def intBytes (z : Int) : List Byte := natBytes (natOfInt z)

/-- The bytes of a port token. -/
def portBytes (p : Port) : List Byte := natBytes p.token

/-- The bytes of a colour. -/
def colorBytes (c : RgbColor) : List Byte := [c.red, c.green, c.blue, c.brightness]

/-- The place of a `WhiteBalanceMode` in R24's list. -/
def wbModeByte : WhiteBalanceMode → Byte
  | .normal => 0
  | .start => 1
  | .manual => 2

/-- The place of a `LedMode` in R24's list. -/
def ledModeByte : LedMode → Byte
  | .auto => 0
  | .manual => 1

/-- The nine fields of a signature after its `id`, in the order of R83. -/
def signatureBytes {ι : Type} (s : SignatureOf ι) : List Byte :=
  word32Bytes s.range ++ word32Bytes s.uMin ++ word32Bytes s.uMax ++ word32Bytes s.uMean ++ word32Bytes s.vMin
    ++ word32Bytes s.vMax ++ word32Bytes s.vMean ++ word32Bytes s.mRgb ++ word32Bytes s.mType

/-- The operand bytes of an image. -/
def Instr.operandBytes : Instr → List Byte
  | .pack32le v => word32Bytes v
  | .unpack32le b => b
  | .packObjectRequest id => word16Bytes id
  | .decodeObjectList b m id => natBytes b.length ++ b ++ natBytes m ++ word16Bytes id
  | .encodeSignature s => s.id :: signatureBytes s
  | .decodeSignature b => b
  | .encodeSignatureSelect id => [id]
  | .decodeSignaturePayload b id => b ++ [id]
  | .encodeByte v => [v]
  | .decodeByte b => b
  | .encodeWbSet c => colorBytes c
  | .decodeWbRgb b => b
  | .encodeLedSet c => colorBytes c
  | .decodeLedGet b => b
  | .encodeWbMode m => [wbModeByte m]
  | .decodeWbMode b => b
  | .encodeLedMode m => [ledModeByte m]
  | .decodeLedMode b => b
  | .getObjects p id m => portBytes p ++ word16Bytes id ++ natBytes m
  | .setSignature p s => portBytes p ++ intBytes s.id ++ signatureBytes s
  | .getSignature p id => portBytes p ++ intBytes id
  | .getBrightness p => portBytes p
  | .setBrightness p v => portBytes p ++ [v]
  | .getWhiteBalanceMode p => portBytes p
  | .setWhiteBalanceMode p m => portBytes p ++ [wbModeByte m]
  | .setWhiteBalance p c => portBytes p ++ colorBytes c
  | .getWhiteBalance p => portBytes p
  | .getLedMode p => portBytes p
  | .setLedMode p m => portBytes p ++ [ledModeByte m]
  | .setLedColor p c => portBytes p ++ colorBytes c
  | .getLedColor p => portBytes p
  | .findFirstSensor => []

/-- The image of a request: descriptor, then operands. -/
def encode (i : Instr) : List Byte := descBytes i.op.desc ++ i.operandBytes

/-! ## The opcode table's words -/

/-- The low `n` bytes of a number, least significant first. -/
def bytesOfNat : Nat → Nat → List Byte
  | 0, _ => []
  | n + 1, w => BitVec.ofNat 8 w :: bytesOfNat n (w / 256)

/-- The image of an instruction whose table bits are `w`: `nbits` bits in whole bytes, then zero operand bytes up to
64, longer than any image with zero operands. -/
def tableImage (nbits w : Nat) : List Byte := bytesOfNat ((nbits + 7) / 8) w ++ List.replicate 64 0

/-- What the decoder reads from an instruction whose bits the table numbers as `w`. -/
def decodeTableWord (nbits w : Nat) : Option Instr :=
  match decode (tableImage nbits w) with
  | .ok i => some i
  | .error _ => none

end Sys2Proof
end

