-- ==== Sys2Proof/Config.lean ====
section
/-! DEFINITION. What an implementation fixes and what nothing fixes: the mode-code parameters as data (R7, R8), and
the free values of the unconstrained oracle (R63), each an opaque constant without a body. -/

namespace Sys2Proof

/-- `WB_CODE`: the byte of each `WhiteBalanceMode` member (R7, R24). -/
structure WbCode where
  normal : Byte
  start : Byte
  manual : Byte
deriving DecidableEq, Repr, Inhabited

/-- `LED_CODE`: the byte of each `LedMode` member (R7, R24). -/
structure LedCode where
  auto : Byte
  manual : Byte
deriving DecidableEq, Repr, Inhabited

/-- The three things a transport call can do: return `ok`, return `fail`, never return (R63, R296). -/
inductive CallFate where
  | returnsOk
  | fails
  | neverReturns
deriving DecidableEq, Repr, Inhabited

/-- FREE (log 1): what the `k`-th transport call does when nothing scripts it (R63, U6, U18). -/
opaque Config.freeFate : Nat → CallFate

/-- FREE (log 1): byte `i` of the answer to the `k`-th transport call (R63, U6). -/
opaque Config.freeByte : Nat → Nat → Byte

/-- FREE (log 1): the transport's error value when the `k`-th call fails (R282, U10). -/
opaque Config.freeError : Nat → TransportError

/-- OPEN PARAMETER (log 2): the ordered list of ports the scan runs over (R8, D13), before duplicates are removed. -/
opaque Config.portSpace : List Port

end Sys2Proof
end

