-- ==== Sys2Proof/Machine/Operands.lean ====
section
/-! DEFINITION. The constants of R6 and R7, the default mode codes, and the operand forms: signed readings, operand
checks, byte access, splitting and joining of multi-byte fields (R10, R93, R122, R124, R125). -/

namespace Sys2Proof.Machine

/-! ## Constants (R6) -/

/-- `REC_LEN` (R6): bytes per detected-object record. -/
def recLen : Nat := 6
/-- `MAX_OBJ` (R6): most objects per query. -/
def maxObj : Nat := 4
/-- `SENTINEL` (R6, R142). -/
def sentinel : Byte := 0xFF
/-- `SIG_ID_MIN` (R6). -/
def sigIdMin : Int := 1
/-- `SIG_ID_MAX` (R6). -/
def sigIdMax : Int := 7
/-- `BRIGHT_MAX` (R6). -/
def brightMax : Byte := 100
/-- `VISION_TYPE` (R6, R271). -/
def visionType : Byte := 0x0B
/-- `REG_OBJ_ID` (R6, R30). -/
def regObjId : Byte := 0x24
/-- `REG_OBJ_DATA` (R6, R31). -/
def regObjData : Byte := 0x26
/-- `REG_SIG` (R6, R32). -/
def regSig : Byte := 0xAF
/-- `REG_BRIGHT` (R6, R33). -/
def regBright : Byte := 0xE2
/-- `REG_WB_MODE` (R6, R34); UNVERIFIED as the register `getWhiteBalanceMode` reads (C3, D2; log 13). -/
def regWbMode : Byte := 0xE3
/-- `REG_WB_RED` (R6, R35). -/
def regWbRed : Byte := 0xE4
/-- `REG_LED_BRIGHT` (R6, R36). -/
def regLedBright : Byte := 0xE7
/-- `REG_LED_MODE` (R6, R37). -/
def regLedMode : Byte := 0xEB
/-- `SIG_PAYLOAD_LEN` (R7); UNVERIFIED on a sensor (C1, D1; log 12). -/
def sigPayloadLen : Nat := 36
/-- `SIG_FRAME_LEN` (R7); UNVERIFIED on a sensor (C1, D1; log 12). -/
def sigFrameLen : Nat := 37

/-- The default `WB_CODE` of R7 (D7; log 3). -/
def defaultWbCode : WbCode := { normal := 0x00, start := 0x01, manual := 0x02 }
/-- The default `LED_CODE` of R7 (D7; log 3). -/
def defaultLedCode : LedCode := { auto := 0x00, manual := 0x01 }

/-! ## Mode codes (R24, R186 to R190) -/

/-- `WB_CODE(mode)` (R186). -/
def wbCodeOf (c : WbCode) : WhiteBalanceMode → Byte
  | .normal => c.normal
  | .start => c.start
  | .manual => c.manual

/-- The member whose `WB_CODE` is `raw`, or none (R187). -/
def wbModeOf (c : WbCode) (raw : Byte) : Option WhiteBalanceMode :=
  if raw = c.normal then some .normal
  else if raw = c.start then some .start
  else if raw = c.manual then some .manual
  else none

/-- `LED_CODE(mode)` (R188). -/
def ledCodeOf (c : LedCode) : LedMode → Byte
  | .auto => c.auto
  | .manual => c.manual

/-- The member whose `LED_CODE` is `raw`, or none (R189). -/
def ledModeOf (c : LedCode) (raw : Byte) : Option LedMode :=
  if raw = c.auto then some .auto
  else if raw = c.manual then some .manual
  else none

/-! ## Operand checks (R140, R203) -/

/-- `signatureId <= 0`, signed (R140). -/
def objectIdRejected (signatureId : Word16) : Bool := signatureId.toInt ≤ 0

/-- `validSigId`: `1 <= id <= 7` on the host's integer before any narrowing (R203). -/
def validSigId (id : Int) : Bool := sigIdMin ≤ id && id ≤ sigIdMax

/-- A host integer narrowed to the byte that goes on the wire, after the check (R203, D16). -/
def narrowId (id : Int) : Byte := BitVec.ofInt 8 id

/-- The same record with another `id`. -/
def withId {ι κ : Type} (s : SignatureOf ι) (id : κ) : SignatureOf κ :=
  ⟨id, s.range, s.uMin, s.uMax, s.uMean, s.vMin, s.vMax, s.vMean, s.mRgb, s.mType⟩

/-! ## Bytes and fields -/

/-- `b[i]`, read only within the frame's length (R9). -/
def byteAt (b : List Byte) (i : Nat) : Byte := b.getD i 0

/-- A 16-bit pattern as `lo | (hi << 8)` (R124). -/
def join16 (lo hi : Byte) : Word16 := hi ++ lo

/-- `2 * b` of an unsigned byte in 16 bits (R93, R125 (4)). -/
def doubled (b : Byte) : Word16 := 2 * b.setWidth 16

/-- An unsigned byte in 16 bits (R93). -/
def widened (b : Byte) : Word16 := b.setWidth 16

/-- `min(brightness, 100)` on an unsigned byte (R184). -/
def clampBrightness (b : Byte) : Byte := if b.toNat ≤ brightMax.toNat then b else brightMax

/-- `floatBits`: the 32-bit pattern of an `f32`, the identity on patterns (R122). -/
def floatBits (f : F32) : Word32 := f

/-- `bitsFloat`: the `f32` with a pattern, the identity on patterns (R122). -/
def bitsFloat (u : Word32) : F32 := u

/-- One entry of the caller's array after the decoder wrote a reading into it: six fields, `total` kept (R143, R145). -/
def writeReading (o : DetectedObject) (r : ObjectReading) : DetectedObject :=
  { o with
    signatureId := r.signatureId, x := r.x, y := r.y, width := r.width, height := r.height, angle := r.angle }

end Sys2Proof.Machine
end

