-- ==== Sys2Proof/Machine/State.lean ====
section
/-! DEFINITION. The state of the machine as plain data, the reasons a step can stop, and the state right after reset.
The block keeps nothing between operations (R20); the state holds its transient state (R27, R28), its interfaces
(R26), the transport's answers and trace (R40, R63), and the caller's arrays (R21, R321). -/

namespace Sys2Proof.Machine

/-- Why a step stops for good. -/
inductive Fault where
  /-- Raised by `step` when an operation is in progress whose transport call never returned: the operation has no
  further step (R296, U18). Safe: the model stops where the hardware waits for ever. -/
  | transportNeverReturns
deriving DecidableEq, Repr

/-- Why an operation is not run. -/
inductive Refusal where
  /-- Raised by `exec`'s arm of an instruction without a meaning (none is left). Safe. -/
  | notModelled (mnemonic : String)
  /-- Raised by `getObjects` with an accepted id and `maxCount = 0`: a model refuses it (R94, R201, U2). Safe. -/
  | zeroMaxCount
  /-- Raised by `setBrightness` with a value of 101 to 255: a model refuses it (R94, R232, U3). Safe. -/
  | brightnessOverRange
  /-- Raised by `decodeObjectList` when `len(buffer) < 6 * maxCount`: a model refuses it (R141, U4). Safe. -/
  | shortBuffer
  /-- Raised by a codec function on a frame whose length is outside its domain (R121, R161, R164, R180). Safe. -/
  | frameLength
  /-- Raised by `step` when the presented bytes are no request image. Safe. -/
  | undecodedRequest (e : DecodeError)
  /-- Raised by `step` when the decoded operation is not well-formed (no image decodes to one). Safe. -/
  | illFormedRequest
deriving DecidableEq, Repr

/-- The position within an operation (R27). -/
inductive Phase where
  /-- `CHECK`: operands being validated, no transport call made yet. -/
  | check
  /-- `T1`: first transaction issued. -/
  | t1
  /-- `T2`: second transaction issued. -/
  | t2
  /-- Discovery's index `k` of the port being queried, 0 to `N_PORTS`. -/
  | scan (k : Nat)
  /-- `DONE`. -/
  | done
deriving DecidableEq, Repr

/-- One transport call (R51 to R53). -/
inductive Call where
  /-- `MemWrite(port, reg, bytes)`. -/
  | write (port : Port) (reg : Byte) (bytes : List Byte)
  /-- `MemRead(port, reg, n)`. -/
  | read (port : Port) (reg : Byte) (n : Nat)
  /-- `DevType(port)`. -/
  | query (port : Port)
deriving DecidableEq, Repr

/-- What the transport answers to a call: `ok` with the bytes read (none for a write, the one byte of the device type
for a query), `fail(e)`, or nothing ever (R51 to R53, R63, R296). -/
inductive Answer where
  | ok (bytes : List Byte)
  | fail (e : TransportError)
  | never
deriving DecidableEq, Repr

/-- One event of the transport trace (R40): `W(port, reg, bytes)`, `R(port, reg, n)` with the answered bytes,
`Q(port)` with the answered type; no answer where the call did not return `ok`. -/
inductive Event where
  | write (port : Port) (reg : Byte) (bytes : List Byte)
  | read (port : Port) (reg : Byte) (n : Nat) (answered : Option (List Byte))
  | query (port : Port) (answered : Option Byte)
deriving DecidableEq, Repr

/-- The result an `OK` response carries, by the result types of the operations' rules. -/
inductive Result where
  /-- Nothing but the status (R230, a set). -/
  | nothing
  /-- The success flag of `setSignature` (R202). -/
  | flag (b : Bool)
  /-- The frame a codec function gives. -/
  | frame (bytes : List Byte)
  /-- An `i32` (R121). -/
  | i32 (v : Word32)
  /-- A sequence of objects, `total` left out (R141, R145). -/
  | objects (readings : List ObjectReading)
  /-- A signature record (R161, R164, R204). -/
  | signature (s : ClassifierSignature)
  /-- A byte value (R181, R231). -/
  | byte (v : Byte)
  /-- The raw mode byte and the member when one matches (R187). -/
  | wbMode (raw : Byte) (mode : Option WhiteBalanceMode)
  /-- The raw mode byte and the member when one matches (R189). -/
  | ledMode (raw : Byte) (mode : Option LedMode)
  /-- A colour (R183, R185). -/
  | color (c : RgbColor)
  /-- The port found, or none (R270, R273). -/
  | port (p : Option Port)
deriving DecidableEq, Repr

/-- A host response (R26, R280): `OK` with the result, `REJECTED`, `TRANSPORT_FAIL` with the transport's error. -/
inductive Response where
  | ok (r : Result)
  | rejected
  | transportFail (e : TransportError)
deriving DecidableEq, Repr

/-- The statuses (R280). -/
inductive Status where
  | ok
  | rejected
  | transportFail
deriving DecidableEq, Repr

/-- The four entries the block can write from the start of the caller's array (R21, R317; log 7). -/
structure ObjArray where
  e0 : DetectedObject
  e1 : DetectedObject
  e2 : DetectedObject
  e3 : DetectedObject
deriving DecidableEq, Repr

/-- The name of one of the caller's arrays, opaque to the block; two names are two arrays (log 26). -/
structure ArrayName where
  token : Nat
deriving DecidableEq, Repr

/-- One host request as it is presented: the operation with its operands as an image (R26; log 4), and the caller's array
that it fills if it fills one (R21, R145; log 26). -/
structure HostRequest where
  image : List Byte
  array : ArrayName
deriving DecidableEq, Repr

/-- The machine's state. -/
structure State where
  /-- `PORTS` (R8). -/
  ports : List Port
  /-- `WB_CODE` (R7). -/
  wbCode : WbCode
  /-- `LED_CODE` (R7). -/
  ledCode : LedCode
  /-- The host requests still to be presented, in order (R26, R97, R321; log 4). -/
  requests : List HostRequest
  /-- The phase of the operation in progress, none between operations (R27, R41). -/
  ph : Option Phase
  /-- The phases gone through, in order: the model's bookkeeping for R27 (log 5). -/
  phLog : List Phase
  /-- The write frame of the operation in progress (R28). -/
  txbuf : List Byte
  /-- The read frame of the operation in progress (R28). -/
  rxbuf : List Byte
  /-- The responses delivered, in order (R26, R321). -/
  responses : List Response
  /-- The transport event trace (R40). -/
  trace : List Event
  /-- The caller's arrays, by name: part of a run's final state (R21, R145, R321). Names rise, and no array is listed that
  equals what an unlisted one holds, `zeroArray` (log 7). -/
  arrays : List (Nat × ObjArray)
  /-- The array that the request in progress, or else the last one, fills. DESIGN CHOICE: the request names it beside its
  operands, for R201 has no array operand and R321 does not say which array a query fills (log 26). -/
  target : ArrayName
  /-- Answers waiting at the transport, consumed one per call: an input (R63; log 8). -/
  script : List Answer
  /-- Whether the register-array test double answers unscripted calls: an input (R63; log 9). -/
  double : Bool
  /-- The register array of that double: address `256 * port token + register address` (R54, R63; log 9). -/
  memory : List Host.Cell
  /-- The model's own counter: how many transport calls have drawn an answer (log 1). -/
  draws : Nat
deriving DecidableEq, Repr

/-- An array entry with every field zero (log 7). -/
def zeroObject : DetectedObject :=
  { signatureId := 0, x := 0, y := 0, width := 0, height := 0, angle := 0, total := 0 }

/-- What a caller's array holds before anything is written to it (log 7). -/
def zeroArray : ObjArray := { e0 := zeroObject, e1 := zeroObject, e2 := zeroObject, e3 := zeroObject }

/-- The machine right after reset: no operation in progress, nothing presented, an empty trace (R41, R310). -/
def State.reset : State where
  ports := Config.portSpace.dedup
  wbCode := defaultWbCode
  ledCode := defaultLedCode
  requests := []
  ph := none
  phLog := []
  txbuf := []
  rxbuf := []
  responses := []
  trace := []
  arrays := []
  target := { token := 0 }
  script := []
  double := false
  memory := []
  draws := 0

end Sys2Proof.Machine
end

