-- ==== Sys2Proof/Machine/Ops.lean ====
section
/-! DEFINITION. The named operations over memory, the caller's arrays, the transport and the sequencer. Memory is the
register array of the test double (R63). The transport's answer to a call is the scripted one if there is one, else the double's, else a
free draw (R51 to R53, R63). An operation is `enter`, then calls through `transact` (the `try` of R11), then
`deliver`: this is the block's whole failure handling (R280 to R288), its counterpart of taking an exception. -/

namespace Sys2Proof.Machine

/-! ## The register array

The operations on a list of cells, sorted by number, serve the register array and the caller's arrays alike. -/

/-- The cell of a register of a port: 256 registers a port (R50). -/
def cellAddr (port : Port) (reg : Byte) : Nat := 256 * port.token + reg.toNat

/-- Addresses strictly rise. No byte equals what an unlisted address reads as, for that is no byte at all. -/
def Memory.wf {α : Type} (m : List (Nat × α)) : Bool := decide ((m.map Prod.fst).Pairwise (· < ·))

/-- The byte at an address, none where nothing is listed. -/
def Memory.read {α : Type} : List (Nat × α) → Nat → Option α
  | [], _ => none
  | (a, b) :: m, x => if a = x then some b else Memory.read m x

/-- One byte written, the form kept. -/
def Memory.write {α : Type} : List (Nat × α) → Nat → α → List (Nat × α)
  | [], x, v => [(x, v)]
  | (a, b) :: m, x, v =>
    if x < a then (x, v) :: (a, b) :: m
    else if x = a then (x, v) :: m
    else (a, b) :: Memory.write m x v

/-- Nothing listed at an address any more, the form kept. -/
def Memory.erase {α : Type} (m : List (Nat × α)) (x : Nat) : List (Nat × α) := m.filter fun c => c.1 != x

/-- `bytes[i]` goes to `reg + i` (R54). -/
def Memory.writeBytes (m : List Host.Cell) (port : Port) (reg : Byte) : List Byte → List Host.Cell
  | [] => m
  | b :: bs => Memory.writeBytes (Memory.write m (cellAddr port reg) b) port (reg + 1) bs

/-- `bytes[i]` comes from `reg + i` (R54); a byte nothing has written is `free i`. -/
def Memory.readBytes (m : List Host.Cell) (port : Port) (reg : Byte) (n : Nat) (free : Nat → Byte) : List Byte :=
  (List.range n).map fun i => (Memory.read m (cellAddr port (reg + BitVec.ofNat 8 i))).getD (free i)

/-! ## Transport calls -/

/-- How many bytes an `ok` answer to a call holds: none for a write (R51), exactly `n` for a read (R52), the one byte
of the device type for a query (R53, D12). -/
def Call.answerLen : Call → Nat
  | .write _ _ _ => 0
  | .read _ _ n => n
  | .query _ => 1

/-- The bytes a call sends. -/
def Call.sent : Call → List Byte
  | .write _ _ bytes => bytes
  | .read _ _ _ => []
  | .query _ => []

/-- The descriptor word of a call (R91): kind, register address, byte count. -/
def Call.desc : Call → BitVec 18
  | .write _ reg bytes => (1 : BitVec 2) ++ reg ++ BitVec.ofNat 8 bytes.length
  | .read _ reg n => (0 : BitVec 2) ++ reg ++ BitVec.ofNat 8 n
  | .query _ => 0x20000

/-- The event a call appends to the trace (R51 to R53). -/
def Call.event (c : Call) (answered : Option (List Byte)) : Event :=
  match c with
  | .write p r bytes => .write p r bytes
  | .read p r n => .read p r n answered
  | .query p => .query p (answered.map fun b => byteAt b 0)

/-- Whether an answer is one the transport contract allows for a call (R51 to R53). -/
def Answer.fits (c : Call) : Answer → Bool
  | .ok bytes => bytes.length == c.answerLen
  | .fail _ => true
  | .never => true

/-- The bytes of an `ok` answer. -/
def Answer.bytes? : Answer → Option (List Byte)
  | .ok bytes => some bytes
  | .fail _ => none
  | .never => none

/-- `n` free bytes of draw `k`. -/
def freeBytes (k n : Nat) : List Byte := (List.range n).map (Config.freeByte k)

/-- The unconstrained oracle: any legal answer (R63; log 1). -/
def freeAnswer (k : Nat) (c : Call) : Answer :=
  match Config.freeFate k with
  | .returnsOk => .ok (freeBytes k c.answerLen)
  | .fails => .fail (Config.freeError k)
  | .neverReturns => .never

/-- The register-array double: it stores and returns register bytes; of device types it knows nothing (R63; log 9). -/
def doubleAnswer (m : List Host.Cell) (k : Nat) : Call → Answer
  | .write _ _ _ => .ok []
  | .read p r n => .ok (Memory.readBytes m p r n (Config.freeByte k))
  | .query p => freeAnswer k (.query p)

/-- The answer where nothing fitting is scripted. -/
def State.unscriptedAnswer (s : State) (c : Call) : Answer :=
  if s.double then doubleAnswer s.memory s.draws c else freeAnswer s.draws c

/-- The transport's answer to a call: the scripted one if it is one the contract allows, else the double's or a free
draw (R63; log 8). -/
def State.answerTo (s : State) (c : Call) : Answer :=
  match s.script with
  | [] => s.unscriptedAnswer c
  | a :: _ => if a.fits c then a else s.unscriptedAnswer c

/-- The register array after a call: the double stores the bytes of a write it reports done (R54). -/
def memoryAfter (double : Bool) (m : List Host.Cell) (c : Call) (a : Answer) : List Host.Cell :=
  match c, a with
  | .write p r bytes, .ok _ => if double then Memory.writeBytes m p r bytes else m
  | _, _ => m

/-! ## The sequencer -/

/-- `ph <- k` (R27). -/
def State.enter (s : State) (k : Phase) : State :=
  { s with ph := some k, phLog := s.phLog ++ [k] }

/-- One transport call made and answered: the event appended, the answer consumed, the frames in their buffers (R28,
R40). -/
def State.afterCall (s : State) (c : Call) (a : Answer) : State :=
  { s with
    txbuf := c.sent
    rxbuf := a.bytes?.getD []
    trace := s.trace ++ [c.event a.bytes?]
    script := s.script.tail
    memory := memoryAfter s.double s.memory c a
    draws := s.draws + 1 }

/-- A host response delivered with no operation left in progress; used alone by a codec function, which has no phases
(R26, R180). -/
def State.respond (s : State) (r : Response) : State :=
  { s with responses := s.responses ++ [r] }

/-- `ph <- DONE` and the response delivered: the operation is over and none of its transient state survives (R20,
R27, R28). With `rejected` or `transportFail` this is the whole of what a failure does to the block (R287). -/
def State.deliver (s : State) (r : Response) : State :=
  { s with
    ph := none
    phLog := s.phLog ++ [.done]
    txbuf := []
    rxbuf := []
    responses := s.responses ++ [r] }

/-- `raise Rejected` in phase CHECK: no call made, nothing recorded (R11, R281). -/
def State.reject (s : State) : State := (s.enter .check).deliver .rejected

/-- `raise TransportFail(e)`: the operation ends at once and issues no further call (R11, R200, R282). -/
def State.transportFailed (s : State) (e : TransportError) : State := s.deliver (.transportFail e)

/-- `try` of one transport call in a phase: on `ok` the operation goes on with the answered bytes, on `fail(e)` it ends
with `TRANSPORT_FAIL(e)`, and if the call never returns the operation stays where it is (R11, R200, U18). -/
def State.transact (s : State) (k : Phase) (c : Call) (next : List Byte → State → State) : State :=
  match (s.enter k).answerTo c with
  | .ok bytes => next bytes ((s.enter k).afterCall c (.ok bytes))
  | .fail e => ((s.enter k).afterCall c (.fail e)).transportFailed e
  | .never => (s.enter k).afterCall c .never

/-! ## The caller's arrays -/

/-- The caller's array of a name; one not listed holds `zeroArray` (R21; log 7). -/
def readArray (m : List (Nat × ObjArray)) (a : ArrayName) : ObjArray := (Memory.read m a.token).getD zeroArray

/-- One of the caller's arrays replaced, the form kept: `zeroArray` is not listed. -/
def writeArray (m : List (Nat × ObjArray)) (a : ArrayName) (v : ObjArray) : List (Nat × ObjArray) :=
  if v = zeroArray then Memory.erase m a.token else Memory.write m a.token v

/-- Names strictly rise, and no listed array equals what an unlisted one holds. -/
def arraysWf (m : List (Nat × ObjArray)) : Bool := Memory.wf m && m.all fun c => decide (c.2 ≠ zeroArray)

/-- What one of the caller's arrays holds. -/
def State.arrayOf (s : State) (a : ArrayName) : ObjArray := readArray s.arrays a

/-- The array the request in progress fills. -/
def State.array (s : State) : ObjArray := s.arrayOf s.target

/-- An array filled in place: entry `k` gets reading `k` if there is one, else it is kept (R145). -/
def ObjArray.fill (a : ObjArray) (rs : List ObjectReading) : ObjArray :=
  { e0 := (rs[0]?.map (writeReading a.e0)).getD a.e0
    e1 := (rs[1]?.map (writeReading a.e1)).getD a.e1
    e2 := (rs[2]?.map (writeReading a.e2)).getD a.e2
    e3 := (rs[3]?.map (writeReading a.e3)).getD a.e3 }

/-- A list of readings written to the array that the request in progress names, and to no other (R145; log 26). -/
def State.fillArray (s : State) (rs : List ObjectReading) : State :=
  { s with arrays := writeArray s.arrays s.target (s.array.fill rs) }

/-! ## Reset -/

/-- The reset input: an operation in progress is abandoned without a response; the calls it made stay made (R310). -/
def State.abandon (s : State) : State := { s with ph := none, txbuf := [], rxbuf := [] }

end Sys2Proof.Machine
end

