-- ==== Sys2Proof/Machine/Flags.lean ====
section
/-! DEFINITION. The block has no flags or condition codes (R20). What plays their part is the status of a response
(R280) and the views the source's software takes of it (D27). -/

namespace Sys2Proof.Machine

/-- The one status of a response (R280). -/
def Response.status : Response → Status
  | .ok _ => .ok
  | .rejected => .rejected
  | .transportFail _ => .transportFail

/-- The codes of R280's table: bookkeeping, on no wire (D11). -/
def Status.code : Status → Nat
  | .ok => 0
  | .rejected => 1
  | .transportFail => 2

/-- The source's boolean view of `setSignature`'s response (R202, D27). -/
def Response.successFlag : Response → Bool
  | .ok (.flag b) => b
  | _ => false

/-- The source's count view of `getObjects`' response: the number of objects, and zero for a rejection (R201, D27). DESIGN
CHOICE: no count for `TRANSPORT_FAIL`, for which the spec gives `no result` (D27) and no count, and which it calls distinct
from length 0 (R283; log 27). A response with another result is none of `getObjects`' and has no count either. -/
def Response.objectCount : Response → Option Nat
  | .ok (.objects rs) => some rs.length
  | .ok _ => none
  | .rejected => some 0
  | .transportFail _ => none

end Sys2Proof.Machine
end

