-- ==== Sys2Proof/Machine/Discovery.lean ====
section
/-! DEFINITION. Discovery (`46_discovery.md`, R270 to R273). -/

namespace Sys2Proof.Machine

/-- The scan from index `k` on, over the ports still to be queried: one query each, first to last, ended by the first
device type equal to `VISION_TYPE` or by a failing query; `none` when the ports are exhausted (R270 to R273). -/
def scanPorts : List Port → Nat → State → State
  | [], k, s => (s.enter (.scan k)).deliver (.ok (.port none))
  | p :: rest, k, s =>
    s.transact (.scan k) (.query p) fun b t =>
      if byteAt b 0 = visionType then t.deliver (.ok (.port (some p))) else scanPorts rest (k + 1) t

/-- `findFirstSensor()` (R270). -/
def execFindFirstSensor (s : State) : Host.Outcome State Fault Refusal :=
  .next (scanPorts s.ports 0 s)

end Sys2Proof.Machine
end

