-- ==== Sys2Proof/Machine/Primitives.lean ====
section
/-! DEFINITION. The 32-bit little-endian helpers (`40_codec_primitives.md`, R120 to R123). -/

namespace Sys2Proof.Machine

/-- `pack32le` (R120). -/
def pack32le (v : Word32) : List Byte :=
  [v.extractLsb' 0 8, v.extractLsb' 8 8, v.extractLsb' 16 8, v.extractLsb' 24 8]

/-- `b[0] | (b[1] << 8) | (b[2] << 16) | (b[3] << 24)` from offset `at`: the unsigned assembly of R121. -/
def join32 (b : List Byte) (off : Nat) : Word32 :=
  byteAt b (off + 3) ++ byteAt b (off + 2) ++ byteAt b (off + 1) ++ byteAt b off

/-- `unpack32le` (R121): the assembled pattern, whose `i32` reading is `.toInt`. -/
def unpack32le (b : List Byte) : Word32 := join32 b 0

/-- `pack32le(v)` as an operation (R120). -/
def execPack32le (v : Word32) (s : State) : Host.Outcome State Fault Refusal :=
  .next (s.respond (.ok (.frame (pack32le v))))

/-- `unpack32le(b)` as an operation, on exactly 4 bytes (R121). -/
def execUnpack32le (b : List Byte) (s : State) : Host.Outcome State Fault Refusal :=
  if b.length = 4 then .next (s.respond (.ok (.i32 (unpack32le b)))) else .refused .frameLength

end Sys2Proof.Machine
end

