-- ==== Sys2Proof/Machine/ColorCodec.lean ====
section
/-! DEFINITION. The colour, brightness and mode byte codec (`43_codec_color_mode.md`, R180 to R190). The mode codes are
the parameters `wbCode` and `ledCode` of the state (R7, R190). -/

namespace Sys2Proof.Machine

/-- `encodeByte` (R181). -/
def encodeByte (v : Byte) : List Byte := [v]

/-- `decodeByte` (R181). -/
def decodeByte (b : List Byte) : Byte := byteAt b 0

/-- `encodeWbSet` (R182): the frame WBSET (R87). -/
def encodeWbSet (code : WbCode) (c : RgbColor) : List Byte := [wbCodeOf code .manual, c.red, c.green, c.blue]

/-- `decodeWbRgb` (R183): from a frame WBRGB (R88), brightness forced to 0. -/
def decodeWbRgb (b : List Byte) : RgbColor :=
  { red := byteAt b 0, green := byteAt b 1, blue := byteAt b 2, brightness := 0 }

/-- `encodeLedSet` (R184): the frame LEDSET (R89), brightness clamped to 100. -/
def encodeLedSet (code : LedCode) (c : RgbColor) : List Byte :=
  [clampBrightness c.brightness, c.red, c.green, c.blue, ledCodeOf code .manual]

/-- `decodeLedGet` (R185): from a frame LEDGET (R90). -/
def decodeLedGet (b : List Byte) : RgbColor :=
  { brightness := byteAt b 0, red := byteAt b 1, green := byteAt b 2, blue := byteAt b 3 }

/-- `encodeWbMode` (R186). -/
def encodeWbMode (code : WbCode) (m : WhiteBalanceMode) : List Byte := [wbCodeOf code m]

/-- `decodeWbMode` (R187): the raw byte and the member when one matches. -/
def decodeWbMode (code : WbCode) (b : List Byte) : Byte × Option WhiteBalanceMode :=
  (byteAt b 0, wbModeOf code (byteAt b 0))

/-- `encodeLedMode` (R188). -/
def encodeLedMode (code : LedCode) (m : LedMode) : List Byte := [ledCodeOf code m]

/-- `decodeLedMode` (R189): the raw byte and the member when one matches. -/
def decodeLedMode (code : LedCode) (b : List Byte) : Byte × Option LedMode :=
  (byteAt b 0, ledModeOf code (byteAt b 0))

/-- `encodeByte(v)` as an operation (R181). -/
def execEncodeByte (v : Byte) (s : State) : Host.Outcome State Fault Refusal :=
  .next (s.respond (.ok (.frame (encodeByte v))))

/-- `decodeByte(b)` as an operation, on exactly 1 byte (R181). -/
def execDecodeByte (b : List Byte) (s : State) : Host.Outcome State Fault Refusal :=
  if b.length = 1 then .next (s.respond (.ok (.byte (decodeByte b)))) else .refused .frameLength

/-- `encodeWbSet(color)` as an operation (R182). -/
def execEncodeWbSet (color : RgbColor) (s : State) : Host.Outcome State Fault Refusal :=
  .next (s.respond (.ok (.frame (encodeWbSet s.wbCode color))))

/-- `decodeWbRgb(b)` as an operation, on exactly 3 bytes (R183). -/
def execDecodeWbRgb (b : List Byte) (s : State) : Host.Outcome State Fault Refusal :=
  if b.length = 3 then .next (s.respond (.ok (.color (decodeWbRgb b)))) else .refused .frameLength

/-- `encodeLedSet(color)` as an operation (R184). -/
def execEncodeLedSet (color : RgbColor) (s : State) : Host.Outcome State Fault Refusal :=
  .next (s.respond (.ok (.frame (encodeLedSet s.ledCode color))))

/-- `decodeLedGet(b)` as an operation, on exactly 4 bytes (R185). -/
def execDecodeLedGet (b : List Byte) (s : State) : Host.Outcome State Fault Refusal :=
  if b.length = 4 then .next (s.respond (.ok (.color (decodeLedGet b)))) else .refused .frameLength

/-- `encodeWbMode(mode)` as an operation (R186). -/
def execEncodeWbMode (mode : WhiteBalanceMode) (s : State) : Host.Outcome State Fault Refusal :=
  .next (s.respond (.ok (.frame (encodeWbMode s.wbCode mode))))

/-- `decodeWbMode(b)` as an operation, on exactly 1 byte (R187). -/
def execDecodeWbMode (b : List Byte) (s : State) : Host.Outcome State Fault Refusal :=
  if b.length = 1 then
    .next (s.respond (.ok (.wbMode (decodeWbMode s.wbCode b).1 (decodeWbMode s.wbCode b).2)))
  else .refused .frameLength

/-- `encodeLedMode(mode)` as an operation (R188). -/
def execEncodeLedMode (mode : LedMode) (s : State) : Host.Outcome State Fault Refusal :=
  .next (s.respond (.ok (.frame (encodeLedMode s.ledCode mode))))

/-- `decodeLedMode(b)` as an operation, on exactly 1 byte (R189). -/
def execDecodeLedMode (b : List Byte) (s : State) : Host.Outcome State Fault Refusal :=
  if b.length = 1 then
    .next (s.respond (.ok (.ledMode (decodeLedMode s.ledCode b).1 (decodeLedMode s.ledCode b).2)))
  else .refused .frameLength

end Sys2Proof.Machine
end

