-- ==== Sys2Proof/Machine/SessionCamera.lean ====
section
/-! DEFINITION. The session operations for brightness, white balance and LED, one transport call each
(`45_session_camera_led.md`, R230 to R241). None has a rejecting check (R230). -/

namespace Sys2Proof.Machine

/-- A one-call get: the register read, the bytes decoded to a result (R230). -/
def runGet (port : Port) (reg : Byte) (n : Nat) (result : List Byte → Result) (s : State) : State :=
  (s.enter .check).transact .t1 (.read port reg n) fun b t => t.deliver (.ok (result b))

/-- A one-call set: the frame written, nothing but the status returned (R230). -/
def runSet (port : Port) (reg : Byte) (frame : List Byte) (s : State) : State :=
  (s.enter .check).transact .t1 (.write port reg frame) fun _ t => t.deliver (.ok .nothing)

/-- `getBrightness(port)` (R231). -/
def execGetBrightness (port : Port) (s : State) : Host.Outcome State Fault Refusal :=
  .next (runGet port regBright 1 (fun b => .byte (decodeByte b)) s)

/-- `setBrightness(port, value)` (R232): a value of 101 to 255 is refused (U3). -/
def execSetBrightness (port : Port) (value : Byte) (s : State) : Host.Outcome State Fault Refusal :=
  if value.toNat ≤ brightMax.toNat then .next (runSet port regBright (encodeByte value) s)
  else .refused .brightnessOverRange

/-- `getWhiteBalanceMode(port)` (R233). -/
def execGetWhiteBalanceMode (port : Port) (s : State) : Host.Outcome State Fault Refusal :=
  .next (runGet port regWbMode 1 (fun b => .wbMode (decodeWbMode s.wbCode b).1 (decodeWbMode s.wbCode b).2) s)

/-- `setWhiteBalanceMode(port, mode)` (R234). -/
def execSetWhiteBalanceMode (port : Port) (mode : WhiteBalanceMode) (s : State) : Host.Outcome State Fault Refusal :=
  .next (runSet port regWbMode (encodeWbMode s.wbCode mode) s)

/-- `setWhiteBalance(port, color)` (R235). -/
def execSetWhiteBalance (port : Port) (color : RgbColor) (s : State) : Host.Outcome State Fault Refusal :=
  .next (runSet port regWbMode (encodeWbSet s.wbCode color) s)

/-- `getWhiteBalance(port)` (R236). -/
def execGetWhiteBalance (port : Port) (s : State) : Host.Outcome State Fault Refusal :=
  .next (runGet port regWbRed 3 (fun b => .color (decodeWbRgb b)) s)

/-- `getLedMode(port)` (R237). -/
def execGetLedMode (port : Port) (s : State) : Host.Outcome State Fault Refusal :=
  .next (runGet port regLedMode 1 (fun b => .ledMode (decodeLedMode s.ledCode b).1 (decodeLedMode s.ledCode b).2) s)

/-- `setLedMode(port, mode)` (R238). -/
def execSetLedMode (port : Port) (mode : LedMode) (s : State) : Host.Outcome State Fault Refusal :=
  .next (runSet port regLedMode (encodeLedMode s.ledCode mode) s)

/-- `setLedColor(port, color)` (R239). -/
def execSetLedColor (port : Port) (color : RgbColor) (s : State) : Host.Outcome State Fault Refusal :=
  .next (runSet port regLedBright (encodeLedSet s.ledCode color) s)

/-- `getLedColor(port)` (R240). -/
def execGetLedColor (port : Port) (s : State) : Host.Outcome State Fault Refusal :=
  .next (runGet port regLedBright 4 (fun b => .color (decodeLedGet b)) s)

end Sys2Proof.Machine
end

