-- ==== Sys2Proof/Machine/ObjectCodec.lean ====
section
/-! DEFINITION. The object request and object list codec (`41_codec_object.md`, R140 to R146). -/

namespace Sys2Proof.Machine

/-- `packObjectRequest` (R140): the frame OBJREQ, or none where the id is rejected. -/
def packObjectRequest (signatureId : Word16) : Option (List Byte) :=
  if objectIdRejected signatureId then none
  else some [signatureId.extractLsb' 0 8, signatureId.extractLsb' 8 8]

/-- `decodeRecord` (R143), a 6-byte record OBJREC (R82). -/
def decodeRecord (r : List Byte) (requestedId : Word16) : ObjectReading :=
  { signatureId := requestedId
    x := doubled (byteAt r 0)
    y := widened (byteAt r 1)
    width := doubled (byteAt r 2)
    height := widened (byteAt r 3)
    angle := join16 (byteAt r 4) (byteAt r 5) }

/-- `decodeObjectList` (R141): records in order up to `maxCount`, ended by a record whose first byte is the sentinel
(R142). -/
def decodeObjectList (buffer : List Byte) (maxCount : Nat) (requestedId : Word16) : List ObjectReading :=
  match maxCount with
  | 0 => []
  | n + 1 =>
    if byteAt buffer 0 = sentinel then []
    else decodeRecord (buffer.take recLen) requestedId :: decodeObjectList (buffer.drop recLen) n requestedId

/-- `packObjectRequest(signatureId)` as an operation (R140, R281). -/
def execPackObjectRequest (signatureId : Word16) (s : State) : Host.Outcome State Fault Refusal :=
  match packObjectRequest signatureId with
  | some frame => .next (s.respond (.ok (.frame frame)))
  | none => .next (s.respond .rejected)

/-- `decodeObjectList(buffer, maxCount, requestedId)` as an operation: the readings returned and written in place (R141,
R145; log 11), refused on a buffer shorter than `6 * maxCount` (U4). -/
def execDecodeObjectList (buffer : List Byte) (maxCount : Nat) (requestedId : Word16) (s : State) :
    Host.Outcome State Fault Refusal :=
  if recLen * maxCount ≤ buffer.length then
    .next ((s.fillArray (decodeObjectList buffer maxCount requestedId)).respond
      (.ok (.objects (decodeObjectList buffer maxCount requestedId))))
  else .refused .shortBuffer

end Sys2Proof.Machine
end

