-- ==== Sys2Proof/Machine/SignatureCodec.lean ====
section
/-! DEFINITION. The classifier signature codec (`42_codec_signature.md`, R160 to R166). -/

namespace Sys2Proof.Machine

/-- `encodeSignature` (R160): the frame SIGFULL (R83), 37 bytes. -/
def encodeSignature (s : ClassifierSignature) : List Byte :=
  [s.id] ++ pack32le (floatBits s.range) ++ pack32le s.uMin ++ pack32le s.uMax ++ pack32le s.uMean
    ++ pack32le s.vMin ++ pack32le s.vMax ++ pack32le s.vMean ++ pack32le s.mRgb ++ pack32le s.mType

/-- `decodeSignature` (R161), from a frame SIGFULL. -/
def decodeSignature (b : List Byte) : ClassifierSignature :=
  { id := byteAt b 0
    range := bitsFloat (join32 b 1)
    uMin := join32 b 5
    uMax := join32 b 9
    uMean := join32 b 13
    vMin := join32 b 17
    vMax := join32 b 21
    vMean := join32 b 25
    mRgb := join32 b 29
    mType := join32 b 33 }

/-- `encodeSignatureSelect` (R163): the frame SIGSEL (R84). -/
def encodeSignatureSelect (id : Byte) : List Byte := [id]

/-- `decodeSignaturePayload` (R164): a frame SIGPAY (R85) with `id` restored from the input. -/
def decodeSignaturePayload (payload : List Byte) (id : Byte) : ClassifierSignature :=
  decodeSignature ([id] ++ payload)

/-- `encodeSignature(sig)` as an operation (R160). -/
def execEncodeSignature (sig : ClassifierSignature) (s : State) : Host.Outcome State Fault Refusal :=
  .next (s.respond (.ok (.frame (encodeSignature sig))))

/-- `decodeSignature(buffer)` as an operation, on exactly 37 bytes (R161). -/
def execDecodeSignature (buffer : List Byte) (s : State) : Host.Outcome State Fault Refusal :=
  if buffer.length = sigFrameLen then .next (s.respond (.ok (.signature (decodeSignature buffer))))
  else .refused .frameLength

/-- `encodeSignatureSelect(id)` as an operation (R163). -/
def execEncodeSignatureSelect (id : Byte) (s : State) : Host.Outcome State Fault Refusal :=
  .next (s.respond (.ok (.frame (encodeSignatureSelect id))))

/-- `decodeSignaturePayload(payload, id)` as an operation, on exactly 36 bytes (R164). -/
def execDecodeSignaturePayload (payload : List Byte) (id : Byte) (s : State) : Host.Outcome State Fault Refusal :=
  if payload.length = sigPayloadLen then .next (s.respond (.ok (.signature (decodeSignaturePayload payload id))))
  else .refused .frameLength

end Sys2Proof.Machine
end

