-- ==== Sys2Proof/Machine/SessionObject.lean ====
section
/-! DEFINITION. The session operations that check an id and make up to two transport calls
(`44_session_object_signature.md`, R200 to R207). -/

namespace Sys2Proof.Machine

/-- `getObjects` after its checks, `n` objects asked for: the id written, `6 * n` bytes read, the list decoded and written
to the caller's array that the request names (R201; log 26). -/
def runGetObjects (port : Port) (signatureId : Word16) (request : List Byte) (n : Nat) (s : State) : State :=
  (s.enter .check).transact .t1 (.write port regObjId request) fun _ t =>
    t.transact .t2 (.read port regObjData (recLen * n)) fun buf u =>
      (u.fillArray (decodeObjectList buf n signatureId)).deliver
        (.ok (.objects (decodeObjectList buf n signatureId)))

/-- `getObjects(port, signatureId, maxCount)` (R201): rejected when `signatureId <= 0`; `maxCount` clamped silently to
4; `maxCount = 0` refused (U2). -/
def execGetObjects (port : Port) (signatureId : Word16) (maxCount : Nat) (s : State) :
    Host.Outcome State Fault Refusal :=
  match packObjectRequest signatureId with
  | none => .next s.reject
  | some request =>
    if maxCount = 0 then .refused .zeroMaxCount
    else .next (runGetObjects port signatureId request (min maxCount maxObj) s)

/-- `setSignature(port, sig)` (R202): rejected when `sig.id` is outside 1 to 7, else one write of 37 bytes. -/
def execSetSignature (port : Port) (sig : HostSignature) (s : State) : Host.Outcome State Fault Refusal :=
  if validSigId sig.id then
    .next ((s.enter .check).transact .t1 (.write port regSig (encodeSignature (withId sig (narrowId sig.id))))
      fun _ t => t.deliver (.ok (.flag true)))
  else .next s.reject

/-- `getSignature(port, id)` (R204): rejected when `id` is outside 1 to 7, else the slot selected, 36 bytes read, and the
record decoded with `id` restored from the operand. -/
def execGetSignature (port : Port) (id : Int) (s : State) : Host.Outcome State Fault Refusal :=
  if validSigId id then
    .next ((s.enter .check).transact .t1 (.write port regSig (encodeSignatureSelect (narrowId id))) fun _ t =>
      t.transact .t2 (.read port regSig sigPayloadLen) fun payload u =>
        u.deliver (.ok (.signature (decodeSignaturePayload payload (narrowId id)))))
  else .next s.reject

end Sys2Proof.Machine
end

