-- ==== Sys2Proof/Machine/Dispatch.lean ====
section
/-! DEFINITION. One arm per operation: each calls its own meaning. -/

namespace Sys2Proof.Machine

def exec (i : Instr) (s : State) : Host.Outcome State Fault Refusal :=
  match i with
  | .pack32le v => Sys2Proof.Machine.execPack32le v s
  | .unpack32le b => Sys2Proof.Machine.execUnpack32le b s
  | .packObjectRequest id => Sys2Proof.Machine.execPackObjectRequest id s
  | .decodeObjectList buffer maxCount id => Sys2Proof.Machine.execDecodeObjectList buffer maxCount id s
  | .encodeSignature sig => Sys2Proof.Machine.execEncodeSignature sig s
  | .decodeSignature buffer => Sys2Proof.Machine.execDecodeSignature buffer s
  | .encodeSignatureSelect id => Sys2Proof.Machine.execEncodeSignatureSelect id s
  | .decodeSignaturePayload payload id => Sys2Proof.Machine.execDecodeSignaturePayload payload id s
  | .encodeByte v => Sys2Proof.Machine.execEncodeByte v s
  | .decodeByte b => Sys2Proof.Machine.execDecodeByte b s
  | .encodeWbSet color => Sys2Proof.Machine.execEncodeWbSet color s
  | .decodeWbRgb b => Sys2Proof.Machine.execDecodeWbRgb b s
  | .encodeLedSet color => Sys2Proof.Machine.execEncodeLedSet color s
  | .decodeLedGet b => Sys2Proof.Machine.execDecodeLedGet b s
  | .encodeWbMode mode => Sys2Proof.Machine.execEncodeWbMode mode s
  | .decodeWbMode b => Sys2Proof.Machine.execDecodeWbMode b s
  | .encodeLedMode mode => Sys2Proof.Machine.execEncodeLedMode mode s
  | .decodeLedMode b => Sys2Proof.Machine.execDecodeLedMode b s
  | .getObjects port id maxCount => Sys2Proof.Machine.execGetObjects port id maxCount s
  | .setSignature port sig => Sys2Proof.Machine.execSetSignature port sig s
  | .getSignature port id => Sys2Proof.Machine.execGetSignature port id s
  | .getBrightness port => Sys2Proof.Machine.execGetBrightness port s
  | .setBrightness port value => Sys2Proof.Machine.execSetBrightness port value s
  | .getWhiteBalanceMode port => Sys2Proof.Machine.execGetWhiteBalanceMode port s
  | .setWhiteBalanceMode port mode => Sys2Proof.Machine.execSetWhiteBalanceMode port mode s
  | .setWhiteBalance port color => Sys2Proof.Machine.execSetWhiteBalance port color s
  | .getWhiteBalance port => Sys2Proof.Machine.execGetWhiteBalance port s
  | .getLedMode port => Sys2Proof.Machine.execGetLedMode port s
  | .setLedMode port mode => Sys2Proof.Machine.execSetLedMode port mode s
  | .setLedColor port color => Sys2Proof.Machine.execSetLedColor port color s
  | .getLedColor port => Sys2Proof.Machine.execGetLedColor port s
  | .findFirstSensor => Sys2Proof.Machine.execFindFirstSensor s

end Sys2Proof.Machine
end

