-- ==== Sys2Proof/Machine/Fetch.lean ====
section
/-! DEFINITION. Taking the next host request from the request interface, and presenting one to it (R26, R97). -/

namespace Sys2Proof.Machine

/-- The next request's image and the state with it taken, its array the one to fill; none when nothing is presented. -/
def State.takeRequest (s : State) : Option (List Byte × State) :=
  match s.requests with
  | [] => none
  | r :: rest => some (r.image, { s with requests := rest, target := r.array })

/-- An image presented as the very next request, naming the array named last, with no operation in progress (log 4). -/
def State.present (s : State) (image : List Byte) : State :=
  { s with ph := none, requests := { image := image, array := s.target } :: s.requests }

end Sys2Proof.Machine
end

