-- ==== Sys2Proof/Machine/Step.lean ====
section
/-! DEFINITION. One step: the next host request is taken from the request interface, decoded and run to its end (R26,
R61, R97, R313). With nothing presented the block is idle (R310). An operation whose transport call never returned has
no further step (R296, U18). -/

namespace Sys2Proof.Machine

/-- One step of the machine. -/
def step (s : State) : Host.Outcome State Fault Refusal :=
  match s.ph with
  | some _ => .fault .transportNeverReturns
  | none =>
    match s.takeRequest with
    | none => .next s
    | some (image, t) =>
      match decode image with
      | .error e => .refused (.undecodedRequest e)
      | .ok i => if i.wellFormed then exec i t else .refused .illFormedRequest

/-- The state with the table's instruction presented as the next host request, and no operation in progress. -/
def State.withFetchWord (s : State) (nbits w : Nat) : State := s.present (tableImage nbits w)

end Sys2Proof.Machine
end

