-- ==== Sys2Proof/Safety.lean ====
section
/-! DEFINITION. What claims about the machine are stated in: the invariant of a state, the calls the register map
allows, and when an operation has a next step. -/

namespace Sys2Proof.Machine

/-- Distinct members have distinct codes: `WB_CODE` is injective (R8). -/
def WbCode.injective (c : WbCode) : Bool := c.normal != c.start && c.normal != c.manual && c.start != c.manual

/-- `LED_CODE` is injective (R8). -/
def LedCode.injective (c : LedCode) : Bool := c.auto != c.manual

/-- The invariant of the machine: the register array and the list of the caller's arrays keep their form; `PORTS` has no
duplicate and the mode codes are injective (R8); the buffers hold at most what R28 allows; and between operations they hold
nothing (R20, R28). -/
structure State.Inv (s : State) : Prop where
  memory : Memory.wf s.memory = true
  arrays : arraysWf s.arrays = true
  ports : s.ports.Nodup
  wbCode : WbCode.injective s.wbCode = true
  ledCode : LedCode.injective s.ledCode = true
  txLength : s.txbuf.length ≤ 37
  rxLength : s.rxbuf.length ≤ 36
  idle : s.ph = none → s.txbuf = [] ∧ s.rxbuf = []

/-- The state in which an operation ends that went through `phases`, made the calls recorded as `events`, and delivered
`r`: everything not written here is as in `s`, the caller's arrays and the register array included. -/
def State.ended (s : State) (phases : List Phase) (events : List Event) (r : Response) : State :=
  { s with
    ph := none
    txbuf := []
    rxbuf := []
    phLog := s.phLog ++ phases
    trace := s.trace ++ events
    script := s.script.drop events.length
    draws := s.draws + events.length
    responses := s.responses ++ [r] }

/-- The state of an operation that went through `phases`, made the calls recorded as `events`, and is still in phase `k`
because its last call, `c`, never returned: no response is delivered (R296, U18). -/
def State.stuck (s : State) (phases : List Phase) (events : List Event) (k : Phase) (c : Call) : State :=
  { s with
    ph := some k
    txbuf := c.sent
    rxbuf := []
    phLog := s.phLog ++ phases
    trace := s.trace ++ events
    script := s.script.drop events.length
    draws := s.draws + events.length }

/-- The four bytes of `f` from `off` on hold `v`, least significant first (R54). -/
def HoldsWord (f : List Byte) (off : Nat) (v : Word32) : Prop :=
  ∀ j < 4, (f.getD (off + j) 0).toNat = v.toNat / 256 ^ j % 256

/-- The 36 bytes of `f` from `off` on hold the nine fields of a signature after its `id`, in R83's order. -/
def HoldsFields {ι : Type} (f : List Byte) (off : Nat) (s : SignatureOf ι) : Prop :=
  HoldsWord f off s.range ∧ HoldsWord f (off + 4) s.uMin ∧ HoldsWord f (off + 8) s.uMax ∧
    HoldsWord f (off + 12) s.uMean ∧ HoldsWord f (off + 16) s.vMin ∧ HoldsWord f (off + 20) s.vMax ∧
    HoldsWord f (off + 24) s.vMean ∧ HoldsWord f (off + 28) s.mRgb ∧ HoldsWord f (off + 32) s.mType

/-- Entry `k` of a caller's array. -/
def ObjArray.entry (a : ObjArray) (k : Fin 4) : DetectedObject :=
  match k with
  | 0 => a.e0
  | 1 => a.e1
  | 2 => a.e2
  | 3 => a.e3

/-- Two states with the same parameters and the same transport: everything an operation's result and calls may depend
on (R20). -/
structure State.SameEnvironment (s t : State) : Prop where
  ports : s.ports = t.ports
  wbCode : s.wbCode = t.wbCode
  ledCode : s.ledCode = t.ledCode
  script : s.script = t.script
  double : s.double = t.double
  memory : s.memory = t.memory
  draws : s.draws = t.draws

/-- Kind (0 read, 1 write, 2 queryDeviceType, R91), register address and byte count of an event's call. -/
def Event.shape : Event → Nat × Byte × Nat
  | .read _ reg n _ => (0, reg, n)
  | .write _ reg bytes => (1, reg, bytes.length)
  | .query _ _ => (2, 0, 0)

/-- The descriptor word of an event's call (R91). -/
def Event.desc (e : Event) : BitVec 18 :=
  BitVec.ofNat 2 e.shape.1 ++ e.shape.2.1 ++ BitVec.ofNat 8 e.shape.2.2

/-- The port of an event's call. -/
def Event.port : Event → Port
  | .read p _ _ _ => p
  | .write p _ _ => p
  | .query p _ => p

/-- The calls of an operation's row in R92's operation map, in order, each as kind, register address and byte count; `n` is
the number of ports a scan has to query. A codec function has none (R96). -/
def mapCalls (n : Nat) : Instr → List (Nat × Byte × Nat)
  | .pack32le _ => []
  | .unpack32le _ => []
  | .packObjectRequest _ => []
  | .decodeObjectList _ _ _ => []
  | .encodeSignature _ => []
  | .decodeSignature _ => []
  | .encodeSignatureSelect _ => []
  | .decodeSignaturePayload _ _ => []
  | .encodeByte _ => []
  | .decodeByte _ => []
  | .encodeWbSet _ => []
  | .decodeWbRgb _ => []
  | .encodeLedSet _ => []
  | .decodeLedGet _ => []
  | .encodeWbMode _ => []
  | .decodeWbMode _ => []
  | .encodeLedMode _ => []
  | .decodeLedMode _ => []
  | .getObjects _ _ maxCount => [(1, 0x24, 2), (0, 0x26, 6 * min maxCount 4)]
  | .setSignature _ _ => [(1, 0xAF, 37)]
  | .getSignature _ _ => [(1, 0xAF, 1), (0, 0xAF, 36)]
  | .getBrightness _ => [(0, 0xE2, 1)]
  | .setBrightness _ _ => [(1, 0xE2, 1)]
  | .getWhiteBalanceMode _ => [(0, 0xE3, 1)]
  | .setWhiteBalanceMode _ _ => [(1, 0xE3, 1)]
  | .setWhiteBalance _ _ => [(1, 0xE3, 4)]
  | .getWhiteBalance _ => [(0, 0xE4, 3)]
  | .getLedMode _ => [(0, 0xEB, 1)]
  | .setLedMode _ _ => [(1, 0xEB, 1)]
  | .setLedColor _ _ => [(1, 0xE7, 5)]
  | .getLedColor _ => [(0, 0xE7, 4)]
  | .findFirstSensor => List.replicate n (2, 0, 0)

/-- Whether an operation has a next step, by its operands alone: a fixed-length frame has its length, a list buffer is
long enough (U4), `getObjects` with an accepted id asks for at least one object (U2), and `setBrightness` stays within
100 (U3). -/
def runs (i : Instr) : Bool :=
  i.wellFormed &&
    match i with
    | .pack32le _ => true
    | .unpack32le _ => true
    | .packObjectRequest _ => true
    | .decodeObjectList buffer maxCount _ => decide (6 * maxCount ≤ buffer.length)
    | .encodeSignature _ => true
    | .decodeSignature _ => true
    | .encodeSignatureSelect _ => true
    | .decodeSignaturePayload _ _ => true
    | .encodeByte _ => true
    | .decodeByte _ => true
    | .encodeWbSet _ => true
    | .decodeWbRgb _ => true
    | .encodeLedSet _ => true
    | .decodeLedGet _ => true
    | .encodeWbMode _ => true
    | .decodeWbMode _ => true
    | .encodeLedMode _ => true
    | .decodeLedMode _ => true
    | .getObjects _ id maxCount => decide (id.toInt ≤ 0) || maxCount != 0
    | .setSignature _ _ => true
    | .getSignature _ _ => true
    | .getBrightness _ => true
    | .setBrightness _ value => decide (value.toNat ≤ 100)
    | .getWhiteBalanceMode _ => true
    | .setWhiteBalanceMode _ _ => true
    | .setWhiteBalance _ _ => true
    | .getWhiteBalance _ => true
    | .getLedMode _ => true
    | .setLedMode _ _ => true
    | .setLedColor _ _ => true
    | .getLedColor _ => true
    | .findFirstSensor => true

/-- The operations that check an operand and can answer `REJECTED`, with the condition (R281). -/
def rejects : Instr → Bool
  | .pack32le _ => false
  | .unpack32le _ => false
  | .packObjectRequest id => decide (id.toInt ≤ 0)
  | .decodeObjectList _ _ _ => false
  | .encodeSignature _ => false
  | .decodeSignature _ => false
  | .encodeSignatureSelect _ => false
  | .decodeSignaturePayload _ _ => false
  | .encodeByte _ => false
  | .decodeByte _ => false
  | .encodeWbSet _ => false
  | .decodeWbRgb _ => false
  | .encodeLedSet _ => false
  | .decodeLedGet _ => false
  | .encodeWbMode _ => false
  | .decodeWbMode _ => false
  | .encodeLedMode _ => false
  | .decodeLedMode _ => false
  | .getObjects _ id _ => decide (id.toInt ≤ 0)
  | .setSignature _ sig => decide (sig.id < 1 ∨ 7 < sig.id)
  | .getSignature _ id => decide (id < 1 ∨ 7 < id)
  | .getBrightness _ => false
  | .setBrightness _ _ => false
  | .getWhiteBalanceMode _ => false
  | .setWhiteBalanceMode _ _ => false
  | .setWhiteBalance _ _ => false
  | .getWhiteBalance _ => false
  | .getLedMode _ => false
  | .setLedMode _ _ => false
  | .setLedColor _ _ => false
  | .getLedColor _ => false
  | .findFirstSensor => false

end Sys2Proof.Machine
end

