-- ==== Sys2Proof/Certificates/Slice0/Obligations.lean ====
section
/-! DEFINITION. The statements about the machine, for the provers. Register addresses, lengths and codes are written out
from the spec's rules, not taken from the model's constants. `s.ended phases events r` (Safety) is the state an operation
ends in; every field it does not name is as before, so an equation with it is the operation's frame as well. -/

open Sys2Proof Sys2Proof.Machine

/-! ## Request images, descriptors, steps -/

/-- Decoding the image of a well-formed request gives the request back, zero padding or none (the model's image form, log
4; its descriptor is R91's, R92's). -/
def Obligations.RequestImageRoundTrip : Prop :=
  ∀ (i : Instr) (n : Nat), i.wellFormed = true → decode (encode i ++ List.replicate n 0) = .ok i

/-- Whatever bytes decode, they decode to a request whose fixed-length frames have their lengths. -/
def Obligations.DecodedRequestsAreWellFormed : Prop :=
  ∀ (image : List Byte) (i : Instr), decode image = .ok i → i.wellFormed = true

/-- No descriptor selects two rows (R91, R92; the codec rows are the model's, log 4). -/
def Obligations.DescriptorSelectsOneRow : Prop :=
  ∀ (d : BitVec 18) (r r' : Row), r ∈ rows → r' ∈ rows → r.selects d = true → r'.selects d = true → r = r'

/-- The descriptors of R92's table decode to their operations, operands zero. -/
def Obligations.TableWordsDecode : Prop :=
  decodeTableWord 24 0x12402 = some (.getObjects ⟨0⟩ 0 0) ∧
  decodeTableWord 24 0x1AF01 = some (.getSignature ⟨0⟩ 0) ∧
  decodeTableWord 24 0x0E301 = some (.getWhiteBalanceMode ⟨0⟩) ∧
  decodeTableWord 24 0x1E705 = some (.setLedColor ⟨0⟩ ⟨0, 0, 0, 0⟩) ∧
  decodeTableWord 24 0x20000 = some .findFirstSensor ∧
  decodeTableWord 24 0x02618 = none ∧
  decodeTableWord 24 0x30000 = none

/-- The first call an operation makes selects the operation's own row (R91, R92). -/
def Obligations.FirstCallSelectsItsRow : Prop :=
  ∀ (i : Instr) (s t : State) (e : Event) (es : List Event),
    exec i s = .next t → t.trace = s.trace ++ e :: es →
      ∃ r ∈ sessionRows, r.op = i.op ∧ r.selects e.desc = true

/-- A step takes the request presented, and runs it, the request's array being the one to fill (log 26); the request is gone
from the queue whatever it does. -/
def Obligations.StepRunsTheDecodedRequest : Prop :=
  ∀ (s : State) (r : HostRequest) (rest : List HostRequest) (i : Instr),
    s.ph = none → s.requests = r :: rest → decode r.image = .ok i → i.wellFormed = true →
      step s = exec i { s with requests := rest, target := r.array }

/-- With nothing presented the block idles; with an operation stuck in a call that never returned there is no further
step (R296, U18); bytes that are no image are refused by the decoder's own name. -/
def Obligations.OtherSteps : Prop :=
  (∀ s : State, s.ph = none → s.requests = [] → step s = .next s) ∧
  (∀ (s : State) (k : Phase), s.ph = some k → step s = .fault .transportNeverReturns) ∧
  (∀ (s : State) (r : HostRequest) (rest : List HostRequest) (e : DecodeError),
    s.ph = none → s.requests = r :: rest → decode r.image = .error e → step s = .refused (.undecodedRequest e))

/-- An `ok` answer has exactly the bytes the call asks for: `n` for a read, one for a device type, none for a write. -/
def Obligations.TransportAnswersFitTheCall : Prop :=
  ∀ (s : State) (port : Port) (reg : Byte) (b : List Byte),
    (∀ n, s.answerTo (.read port reg n) = .ok b → b.length = n) ∧
    (s.answerTo (.query port) = .ok b → b.length = 1) ∧
    (∀ bytes, s.answerTo (.write port reg bytes) = .ok b → b = [])

/-! ## Codec functions -/

/-- `pack32le` gives the four bytes of the pattern, least significant first, and changes nothing but the response list. -/
def Obligations.PackGivesLittleEndianBytes : Prop :=
  ∀ (v : Word32) (s : State), ∃ f : List Byte,
    exec (.pack32le v) s = .next { s with responses := s.responses ++ [.ok (.frame f)] } ∧
      f.length = 4 ∧ HoldsWord f 0 v

/-- `unpack32le` assembles unsigned bytes (the spec's decision D3), least significant first, and its `i32` reading takes bit 31 as
the sign. -/
def Obligations.UnpackReadsTwosComplement : Prop :=
  ∀ (b0 b1 b2 b3 : Byte) (s : State), ∃ v : Word32,
    exec (.unpack32le [b0, b1, b2, b3]) s = .next { s with responses := s.responses ++ [.ok (.i32 v)] } ∧
      v.toNat = b0.toNat + 2 ^ 8 * b1.toNat + 2 ^ 16 * b2.toNat + 2 ^ 24 * b3.toNat ∧
      v.toInt = if v.toNat < 2 ^ 31 then (v.toNat : Int) else v.toNat - 2 ^ 32

/-- `pack32le` and `unpack32le` are inverse bijections between the 32-bit values and the four-byte sequences. -/
def Obligations.HelpersAreInverse : Prop :=
  (∀ v : Word32, unpack32le (pack32le v) = v) ∧
  (∀ b : List Byte, b.length = 4 → pack32le (unpack32le b) = b) ∧
  (∀ u : Word32, (unpack32le (pack32le u)).toNat = u.toNat) ∧
  (∀ v : Word32, (unpack32le (pack32le v)).toInt = v.toInt)

/-- `packObjectRequest`: every id that is not positive is rejected, every other gives low byte then high byte. That the id is an
`i16` is the spec's decision D9. -/
def Obligations.ObjectRequestPackedOrRejected : Prop :=
  ∀ (id : Word16) (s : State),
    (id.toInt ≤ 0 →
      exec (.packObjectRequest id) s = .next { s with responses := s.responses ++ [.rejected] }) ∧
    (0 < id.toInt → ∃ lo hi : Byte,
      exec (.packObjectRequest id) s = .next { s with responses := s.responses ++ [.ok (.frame [lo, hi])] } ∧
        id.toInt = lo.toNat + 256 * hi.toNat ∧ hi.toNat < 128)

/-- `decodeObjectList`: object `k` is record `k`; the count is the index of the first record among the first `maxCount`
led by 0xFF, or `maxCount`; only the responses and the caller's array that the request names
change. Unsigned raw bytes, the `i16` angle pattern and
the buffer's least length are the spec's decisions D3, D4, D26; that the pure function fills the caller's array is log 11, and
that the request names this array log 26. -/
def Obligations.ObjectListDecoded : Prop :=
  ∀ (buffer : List Byte) (maxCount : Nat) (id : Word16) (s : State), 6 * maxCount ≤ buffer.length →
    ∃ rs : List ObjectReading, rs = decodeObjectList buffer maxCount id ∧
      exec (.decodeObjectList buffer maxCount id) s =
        .next { s with arrays := writeArray s.arrays s.target ((s.arrayOf s.target).fill rs),
                       responses := s.responses ++ [.ok (.objects rs)] } ∧
      rs.length ≤ maxCount ∧
      (∀ (k : Nat) (h : k < rs.length),
        buffer.getD (6 * k) 0 ≠ 0xFF ∧
        rs[k].signatureId = id ∧
        rs[k].x.toInt = 2 * (buffer.getD (6 * k) 0).toNat ∧
        rs[k].y.toInt = (buffer.getD (6 * k + 1) 0).toNat ∧
        rs[k].width.toInt = 2 * (buffer.getD (6 * k + 2) 0).toNat ∧
        rs[k].height.toInt = (buffer.getD (6 * k + 3) 0).toNat ∧
        rs[k].angle.toNat = (buffer.getD (6 * k + 4) 0).toNat + 256 * (buffer.getD (6 * k + 5) 0).toNat) ∧
      (rs.length < maxCount → buffer.getD (6 * rs.length) 0 = 0xFF)

/-- Whichever operation returns objects has written entry `k` of the caller's array that its request names with object `k`'s
six fields and kept its `total`, and kept every entry past the count (the spec's decision D10; four entries are there to write,
log 7; that the request names the array is log 26), and every other array of the caller. -/
def Obligations.CallersArrayFilledInPlace : Prop :=
  ∀ (i : Instr) (s t : State) (rs : List ObjectReading) (k : Fin 4),
    exec i s = .next t → t.responses = s.responses ++ [.ok (.objects rs)] →
      (∀ h : k.val < rs.length,
        (t.arrayOf s.target).entry k =
          { signatureId := rs[k.val].signatureId, x := rs[k.val].x, y := rs[k.val].y, width := rs[k.val].width,
            height := rs[k.val].height, angle := rs[k.val].angle,
            total := ((s.arrayOf s.target).entry k).total }) ∧
      (rs.length ≤ k.val → (t.arrayOf s.target).entry k = (s.arrayOf s.target).entry k) ∧
      (∀ a : ArrayName, a ≠ s.target → t.arrayOf a = s.arrayOf a)

/-- `encodeSignature`: 37 bytes (the spec's decision D1, log 12), `id` first, then the nine fields little-endian in order,
whatever their values (no check of `id`: D16). -/
def Obligations.SignatureFrameLayout : Prop :=
  ∀ (sig : ClassifierSignature) (s : State), ∃ f : List Byte,
    exec (.encodeSignature sig) s = .next { s with responses := s.responses ++ [.ok (.frame f)] } ∧
      f.length = 37 ∧ f.getD 0 0 = sig.id ∧ HoldsFields f 1 sig

/-- `decodeSignature`: every 37-byte frame (D1, log 12) decodes, field by field as `encodeSignature` lays them out. -/
def Obligations.SignatureFrameDecoded : Prop :=
  ∀ (b : List Byte) (s : State), b.length = 37 → ∃ r : ClassifierSignature,
    exec (.decodeSignature b) s = .next { s with responses := s.responses ++ [.ok (.signature r)] } ∧
      r.id = b.getD 0 0 ∧ HoldsFields b 1 r

/-- The signature codec loses nothing, in either direction, for every `id` and every `range` pattern. -/
def Obligations.SignatureCodecIsABijection : Prop :=
  (∀ r : ClassifierSignature, decodeSignature (encodeSignature r) = r) ∧
  (∀ b : List Byte, b.length = 37 → encodeSignature (decodeSignature b) = b)

/-- `encodeSignatureSelect` is the id byte alone; `decodeSignaturePayload` decodes any 36 bytes (D1, log 12) and takes the `id`
from its input. -/
def Obligations.SelectAndPayload : Prop :=
  (∀ (id : Byte) (s : State),
    exec (.encodeSignatureSelect id) s = .next { s with responses := s.responses ++ [.ok (.frame [id])] }) ∧
  (∀ (b : List Byte) (id : Byte) (s : State), b.length = 36 → ∃ r : ClassifierSignature,
    exec (.decodeSignaturePayload b id) s = .next { s with responses := s.responses ++ [.ok (.signature r)] } ∧
      r.id = id ∧ HoldsFields b 0 r)

/-- The full frame is the select frame followed by a 36-byte payload that decodes, under the record's id, to the record. -/
def Obligations.FullFrameIsSelectThenPayload : Prop :=
  ∀ r : ClassifierSignature, ∃ p : List Byte,
    encodeSignature r = encodeSignatureSelect r.id ++ p ∧ p.length = 36 ∧ decodeSignaturePayload p r.id = r

/-- `encodeByte` and `decodeByte` pass the byte unchanged, without clamp. -/
def Obligations.BrightnessBytePassesUnchanged : Prop :=
  ∀ (v : Byte) (s : State),
    exec (.encodeByte v) s = .next { s with responses := s.responses ++ [.ok (.frame [v])] } ∧
    exec (.decodeByte [v]) s = .next { s with responses := s.responses ++ [.ok (.byte v)] }

/-- The white-balance frames: the manual tag then the channels on the way out, three channels and brightness 0 on the way
in. -/
def Obligations.WhiteBalanceColourFrames : Prop :=
  (∀ (c : RgbColor) (s : State),
    exec (.encodeWbSet c) s =
      .next { s with responses := s.responses ++ [.ok (.frame [s.wbCode.manual, c.red, c.green, c.blue])] }) ∧
  (∀ (r g b : Byte) (s : State),
    exec (.decodeWbRgb [r, g, b]) s =
      .next { s with responses :=
        s.responses ++ [.ok (.color { red := r, green := g, blue := b, brightness := 0 })] })

/-- The LED frames: brightness clamped to 100, the channels, the manual tag on the way out; brightness unclamped and the
channels on the way in. -/
def Obligations.LedColourFrames : Prop :=
  (∀ (c : RgbColor) (s : State), ∃ v : Byte, v.toNat = min c.brightness.toNat 100 ∧
    exec (.encodeLedSet c) s =
      .next { s with responses := s.responses ++ [.ok (.frame [v, c.red, c.green, c.blue, s.ledCode.manual])] }) ∧
  (∀ (v r g b : Byte) (s : State),
    exec (.decodeLedGet [v, r, g, b]) s =
      .next { s with responses :=
        s.responses ++ [.ok (.color { red := r, green := g, blue := b, brightness := v })] })

/-- A mode goes out as its code: the parameters `WB_CODE` and `LED_CODE`. -/
def Obligations.ModesEncodedByTheirCodes : Prop :=
  ∀ s : State,
    exec (.encodeWbMode .normal) s = .next { s with responses := s.responses ++ [.ok (.frame [s.wbCode.normal])] } ∧
    exec (.encodeWbMode .start) s = .next { s with responses := s.responses ++ [.ok (.frame [s.wbCode.start])] } ∧
    exec (.encodeWbMode .manual) s = .next { s with responses := s.responses ++ [.ok (.frame [s.wbCode.manual])] } ∧
    exec (.encodeLedMode .auto) s = .next { s with responses := s.responses ++ [.ok (.frame [s.ledCode.auto])] } ∧
    exec (.encodeLedMode .manual) s = .next { s with responses := s.responses ++ [.ok (.frame [s.ledCode.manual])] }

/-- A mode byte comes in as the raw byte always, with the member whose code it is, and with no member when it is no
member's code (the spec's decision D8). -/
def Obligations.ModeBytesDecodedToTheirMember : Prop :=
  (∀ (raw : Byte) (s : State), WbCode.injective s.wbCode = true → ∃ m : Option WhiteBalanceMode,
    exec (.decodeWbMode [raw]) s = .next { s with responses := s.responses ++ [.ok (.wbMode raw m)] } ∧
      ∀ x, m = some x ↔ wbCodeOf s.wbCode x = raw) ∧
  (∀ (raw : Byte) (s : State), LedCode.injective s.ledCode = true → ∃ m : Option LedMode,
    exec (.decodeLedMode [raw]) s = .next { s with responses := s.responses ++ [.ok (.ledMode raw m)] } ∧
      ∀ x, m = some x ↔ ledCodeOf s.ledCode x = raw)

/-- Where the spec defines nothing and has a model refuse: a list buffer too short (U4, D26), `getObjects` asking for nothing
(U2). A fixed-length frame outside a codec function's domain is refused by the model's choice (log 14). `setBrightness` above
100 stands in `SetBrightnessWritesTheByte`. -/
def Obligations.UndefinedOperandsRefused : Prop :=
  ∀ (s : State) (port : Port) (b : List Byte) (n : Nat) (id : Word16) (v : Byte),
    (b.length < 6 * n → exec (.decodeObjectList b n id) s = .refused .shortBuffer) ∧
    (0 < id.toInt → exec (.getObjects port id 0) s = .refused .zeroMaxCount) ∧
    (b.length ≠ 4 → exec (.unpack32le b) s = .refused .frameLength ∧ exec (.decodeLedGet b) s = .refused .frameLength) ∧
    (b.length ≠ 37 → exec (.decodeSignature b) s = .refused .frameLength) ∧
    (b.length ≠ 36 → exec (.decodeSignaturePayload b v) s = .refused .frameLength) ∧
    (b.length ≠ 3 → exec (.decodeWbRgb b) s = .refused .frameLength) ∧
    (b.length ≠ 1 → exec (.decodeByte b) s = .refused .frameLength ∧
      exec (.decodeWbMode b) s = .refused .frameLength ∧ exec (.decodeLedMode b) s = .refused .frameLength)

/-! ## Session operations on objects and signatures -/

/-- An id that is not positive is rejected in phase CHECK, whatever `maxCount` is, with no call and nothing touched (what the
response carries is the spec's decision D27). -/
def Obligations.GetObjectsRejectsNonPositiveIds : Prop :=
  ∀ (s : State) (port : Port) (id : Word16) (maxCount : Nat), id.toInt ≤ 0 →
    exec (.getObjects port id maxCount) s = .next (s.ended [.check, .done] [] .rejected)

/-- `getObjects`: the id's two bytes written to 0x24, `6 * min(maxCount, 4)` bytes read from 0x26 (the silent clamp is the
spec's decision D6), the list decoded, returned and written to the caller's array that the request names (log 26). -/
def Obligations.GetObjectsReturnsTheList : Prop :=
  ∀ (s : State) (port : Port) (id : Word16) (maxCount n : Nat) (lo hi : Byte) (buf : List Byte) (rs : List ObjectReading),
    0 < id.toInt → id = hi ++ lo → maxCount ≠ 0 → n = min maxCount 4 →
    s.answerTo (.write port 0x24 [lo, hi]) = .ok [] →
    (s.afterCall (.write port 0x24 [lo, hi]) (.ok [])).answerTo (.read port 0x26 (6 * n)) = .ok buf →
    rs = decodeObjectList buf n id →
      exec (.getObjects port id maxCount) s =
        .next { s.ended [.check, .t1, .t2, .done]
            [.write port 0x24 [lo, hi], .read port 0x26 (6 * n) (some buf)] (.ok (.objects rs)) with
          arrays := writeArray s.arrays s.target ((s.arrayOf s.target).fill rs)
          memory := memoryAfter s.double s.memory (.write port 0x24 [lo, hi]) (.ok []) }

/-- `getObjects` ends at the first call that fails: no second call after a failed first (the spec's decision D28), no result, the
caller's array as it was (D27). -/
def Obligations.GetObjectsStopsAtAFailedCall : Prop :=
  ∀ (s : State) (port : Port) (id : Word16) (maxCount : Nat) (lo hi : Byte) (e : TransportError),
    0 < id.toInt → id = hi ++ lo → maxCount ≠ 0 →
    (s.answerTo (.write port 0x24 [lo, hi]) = .fail e →
      exec (.getObjects port id maxCount) s =
        .next (s.ended [.check, .t1, .done] [.write port 0x24 [lo, hi]] (.transportFail e))) ∧
    (s.answerTo (.write port 0x24 [lo, hi]) = .ok [] →
      (s.afterCall (.write port 0x24 [lo, hi]) (.ok [])).answerTo (.read port 0x26 (6 * min maxCount 4)) = .fail e →
      exec (.getObjects port id maxCount) s =
        .next { s.ended [.check, .t1, .t2, .done]
            [.write port 0x24 [lo, hi], .read port 0x26 (6 * min maxCount 4) none] (.transportFail e) with
          memory := memoryAfter s.double s.memory (.write port 0x24 [lo, hi]) (.ok []) })

/-- `setSignature` with an id of 1 to 7: one write of the whole 37-byte record (D1, log 12) to 0xAF, success flag true. -/
def Obligations.SetSignatureWritesTheRecord : Prop :=
  ∀ (s : State) (port : Port) (sig : HostSignature) (f : List Byte),
    1 ≤ sig.id → sig.id ≤ 7 → f.length = 37 → (f.getD 0 0).toNat = sig.id → HoldsFields f 1 sig →
    s.answerTo (.write port 0xAF f) = .ok [] →
      exec (.setSignature port sig) s =
        .next { s.ended [.check, .t1, .done] [.write port 0xAF f] (.ok (.flag true)) with
          memory := memoryAfter s.double s.memory (.write port 0xAF f) (.ok []) }

/-- `getSignature` with an id of 1 to 7: the id written to 0xAF, 36 bytes (D1, log 12) read from 0xAF, the record decoded from
them with the operand as its id. -/
def Obligations.GetSignatureRestoresTheId : Prop :=
  ∀ (s : State) (port : Port) (id : Int) (i : Byte) (pay : List Byte),
    1 ≤ id → id ≤ 7 → (i.toNat : Int) = id →
    s.answerTo (.write port 0xAF [i]) = .ok [] →
    (s.afterCall (.write port 0xAF [i]) (.ok [])).answerTo (.read port 0xAF 36) = .ok pay →
      ∃ r : ClassifierSignature, r.id = i ∧ HoldsFields pay 0 r ∧
        exec (.getSignature port id) s =
          .next { s.ended [.check, .t1, .t2, .done]
              [.write port 0xAF [i], .read port 0xAF 36 (some pay)] (.ok (.signature r)) with
            memory := memoryAfter s.double s.memory (.write port 0xAF [i]) (.ok []) }

/-- An id outside 1 to 7, as a host integer before any narrowing (the spec's decision D16), is rejected in phase CHECK with no
call, by both signature operations (what the response carries: D27). -/
def Obligations.SignatureOperationsRejectOtherIds : Prop :=
  ∀ (s : State) (port : Port),
    (∀ sig : HostSignature, sig.id < 1 ∨ 7 < sig.id →
      exec (.setSignature port sig) s = .next (s.ended [.check, .done] [] .rejected)) ∧
    (∀ id : Int, id < 1 ∨ 7 < id →
      exec (.getSignature port id) s = .next (s.ended [.check, .done] [] .rejected))

/-- A failing call ends `setSignature` and `getSignature` at once with the transport's error; no second call after a failed first
(the spec's decision D28), and no result (D27). -/
def Obligations.SignatureOperationsStopAtAFailedCall : Prop :=
  ∀ (s : State) (port : Port) (e : TransportError),
    (∀ (sig : HostSignature) (f : List Byte), 1 ≤ sig.id → sig.id ≤ 7 → f.length = 37 →
      (f.getD 0 0).toNat = sig.id → HoldsFields f 1 sig → s.answerTo (.write port 0xAF f) = .fail e →
      exec (.setSignature port sig) s =
        .next (s.ended [.check, .t1, .done] [.write port 0xAF f] (.transportFail e))) ∧
    (∀ (id : Int) (i : Byte), 1 ≤ id → id ≤ 7 → (i.toNat : Int) = id →
      (s.answerTo (.write port 0xAF [i]) = .fail e →
        exec (.getSignature port id) s =
          .next (s.ended [.check, .t1, .done] [.write port 0xAF [i]] (.transportFail e))) ∧
      (s.answerTo (.write port 0xAF [i]) = .ok [] →
        (s.afterCall (.write port 0xAF [i]) (.ok [])).answerTo (.read port 0xAF 36) = .fail e →
        exec (.getSignature port id) s =
          .next { s.ended [.check, .t1, .t2, .done]
              [.write port 0xAF [i], .read port 0xAF 36 none] (.transportFail e) with
            memory := memoryAfter s.double s.memory (.write port 0xAF [i]) (.ok []) }))

/-! ## Session operations on brightness, white balance and LED -/

/-- R231: one byte read from 0xE2, returned as it is, above 100 too (the spec's decision D29). -/
def Obligations.GetBrightnessReturnsTheByte : Prop :=
  ∀ (s : State) (port : Port),
    (∀ b : Byte, s.answerTo (.read port 0xE2 1) = .ok [b] →
      exec (.getBrightness port) s =
        .next (s.ended [.check, .t1, .done] [.read port 0xE2 1 (some [b])] (.ok (.byte b)))) ∧
    (∀ e, s.answerTo (.read port 0xE2 1) = .fail e →
      exec (.getBrightness port) s =
        .next (s.ended [.check, .t1, .done] [.read port 0xE2 1 none] (.transportFail e)))

/-- R232: a value of 0 to 100 is written to 0xE2 as one byte; a value above 100 the rule does not define and has a model
refuse (U3). -/
def Obligations.SetBrightnessWritesTheByte : Prop :=
  ∀ (s : State) (port : Port) (v : Byte),
    (v.toNat ≤ 100 →
      (s.answerTo (.write port 0xE2 [v]) = .ok [] →
        exec (.setBrightness port v) s =
          .next { s.ended [.check, .t1, .done] [.write port 0xE2 [v]] (.ok .nothing) with
            memory := memoryAfter s.double s.memory (.write port 0xE2 [v]) (.ok []) }) ∧
      (∀ e, s.answerTo (.write port 0xE2 [v]) = .fail e →
        exec (.setBrightness port v) s =
          .next (s.ended [.check, .t1, .done] [.write port 0xE2 [v]] (.transportFail e)))) ∧
    (100 < v.toNat → exec (.setBrightness port v) s = .refused .brightnessOverRange)

/-- R233: one byte read from 0xE3, the register of the spec's decision D2 (conflict C3; log 13), returned raw with the member
whose code it is, if any (D8). -/
def Obligations.GetWhiteBalanceModeReadsE3 : Prop :=
  ∀ (s : State) (port : Port), WbCode.injective s.wbCode = true →
    (∀ b : Byte, s.answerTo (.read port 0xE3 1) = .ok [b] → ∃ m : Option WhiteBalanceMode,
      (∀ x, m = some x ↔ wbCodeOf s.wbCode x = b) ∧
      exec (.getWhiteBalanceMode port) s =
        .next (s.ended [.check, .t1, .done] [.read port 0xE3 1 (some [b])] (.ok (.wbMode b m)))) ∧
    (∀ e, s.answerTo (.read port 0xE3 1) = .fail e →
      exec (.getWhiteBalanceMode port) s =
        .next (s.ended [.check, .t1, .done] [.read port 0xE3 1 none] (.transportFail e)))

/-- R234: the member's code, a parameter, written to 0xE3. -/
def Obligations.SetWhiteBalanceModeWritesItsCode : Prop :=
  ∀ (s : State) (port : Port) (m : WhiteBalanceMode) (b : Byte),
    b = (match m with | .normal => s.wbCode.normal | .start => s.wbCode.start | .manual => s.wbCode.manual) →
    (s.answerTo (.write port 0xE3 [b]) = .ok [] →
      exec (.setWhiteBalanceMode port m) s =
        .next { s.ended [.check, .t1, .done] [.write port 0xE3 [b]] (.ok .nothing) with
          memory := memoryAfter s.double s.memory (.write port 0xE3 [b]) (.ok []) }) ∧
    (∀ e, s.answerTo (.write port 0xE3 [b]) = .fail e →
      exec (.setWhiteBalanceMode port m) s =
        .next (s.ended [.check, .t1, .done] [.write port 0xE3 [b]] (.transportFail e)))

/-- R235: the manual tag and the three channels written to 0xE3 in one call; brightness is not sent. -/
def Obligations.SetWhiteBalanceWritesTagAndChannels : Prop :=
  ∀ (s : State) (port : Port) (c : RgbColor) (f : List Byte), f = [s.wbCode.manual, c.red, c.green, c.blue] →
    (s.answerTo (.write port 0xE3 f) = .ok [] →
      exec (.setWhiteBalance port c) s =
        .next { s.ended [.check, .t1, .done] [.write port 0xE3 f] (.ok .nothing) with
          memory := memoryAfter s.double s.memory (.write port 0xE3 f) (.ok []) }) ∧
    (∀ e, s.answerTo (.write port 0xE3 f) = .fail e →
      exec (.setWhiteBalance port c) s =
        .next (s.ended [.check, .t1, .done] [.write port 0xE3 f] (.transportFail e)))

/-- R236: three bytes read from 0xE4; brightness is 0. -/
def Obligations.GetWhiteBalanceReadsThreeChannels : Prop :=
  ∀ (s : State) (port : Port),
    (∀ r g b : Byte, s.answerTo (.read port 0xE4 3) = .ok [r, g, b] →
      exec (.getWhiteBalance port) s =
        .next (s.ended [.check, .t1, .done] [.read port 0xE4 3 (some [r, g, b])]
          (.ok (.color { red := r, green := g, blue := b, brightness := 0 })))) ∧
    (∀ e, s.answerTo (.read port 0xE4 3) = .fail e →
      exec (.getWhiteBalance port) s =
        .next (s.ended [.check, .t1, .done] [.read port 0xE4 3 none] (.transportFail e)))

/-- R237: one byte read from 0xEB, returned raw with the member whose code it is, if any (the spec's decision D8). -/
def Obligations.GetLedModeReadsEB : Prop :=
  ∀ (s : State) (port : Port), LedCode.injective s.ledCode = true →
    (∀ b : Byte, s.answerTo (.read port 0xEB 1) = .ok [b] → ∃ m : Option LedMode,
      (∀ x, m = some x ↔ ledCodeOf s.ledCode x = b) ∧
      exec (.getLedMode port) s =
        .next (s.ended [.check, .t1, .done] [.read port 0xEB 1 (some [b])] (.ok (.ledMode b m)))) ∧
    (∀ e, s.answerTo (.read port 0xEB 1) = .fail e →
      exec (.getLedMode port) s =
        .next (s.ended [.check, .t1, .done] [.read port 0xEB 1 none] (.transportFail e)))

/-- R238: the member's code, a parameter, written to 0xEB. -/
def Obligations.SetLedModeWritesItsCode : Prop :=
  ∀ (s : State) (port : Port) (m : LedMode) (b : Byte),
    b = (match m with | .auto => s.ledCode.auto | .manual => s.ledCode.manual) →
    (s.answerTo (.write port 0xEB [b]) = .ok [] →
      exec (.setLedMode port m) s =
        .next { s.ended [.check, .t1, .done] [.write port 0xEB [b]] (.ok .nothing) with
          memory := memoryAfter s.double s.memory (.write port 0xEB [b]) (.ok []) }) ∧
    (∀ e, s.answerTo (.write port 0xEB [b]) = .fail e →
      exec (.setLedMode port m) s =
        .next (s.ended [.check, .t1, .done] [.write port 0xEB [b]] (.transportFail e)))

/-- R239: brightness clamped to 100, the three channels and the manual tag written to 0xE7 in one call. -/
def Obligations.SetLedColorClampsBrightness : Prop :=
  ∀ (s : State) (port : Port) (c : RgbColor) (v : Byte) (f : List Byte),
    v.toNat = min c.brightness.toNat 100 → f = [v, c.red, c.green, c.blue, s.ledCode.manual] →
    (s.answerTo (.write port 0xE7 f) = .ok [] →
      exec (.setLedColor port c) s =
        .next { s.ended [.check, .t1, .done] [.write port 0xE7 f] (.ok .nothing) with
          memory := memoryAfter s.double s.memory (.write port 0xE7 f) (.ok []) }) ∧
    (∀ e, s.answerTo (.write port 0xE7 f) = .fail e →
      exec (.setLedColor port c) s =
        .next (s.ended [.check, .t1, .done] [.write port 0xE7 f] (.transportFail e)))

/-- R240: four bytes read from 0xE7, brightness first, above 100 too (the spec's decision D29). -/
def Obligations.GetLedColorReadsFourBytes : Prop :=
  ∀ (s : State) (port : Port),
    (∀ v r g b : Byte, s.answerTo (.read port 0xE7 4) = .ok [v, r, g, b] →
      exec (.getLedColor port) s =
        .next (s.ended [.check, .t1, .done] [.read port 0xE7 4 (some [v, r, g, b])]
          (.ok (.color { red := r, green := g, blue := b, brightness := v })))) ∧
    (∀ e, s.answerTo (.read port 0xE7 4) = .fail e →
      exec (.getLedColor port) s =
        .next (s.ended [.check, .t1, .done] [.read port 0xE7 4 none] (.transportFail e)))

/-! ## Discovery -/

/-- The first port of type 0x0B ends the scan: every port before it is queried once, in order, no port after it. -/
def Obligations.FindFirstSensorReturnsTheFirstMatch : Prop :=
  ∀ (s : State) (pre post : List Port) (p : Port) (types : List Byte) (rest : List Answer),
    s.ports = pre ++ p :: post → types.length = pre.length → 0x0B ∉ types →
    s.script = types.map (fun t => .ok [t]) ++ .ok [0x0B] :: rest →
      exec .findFirstSensor s =
        .next (s.ended ((List.range (pre.length + 1)).map .scan ++ [.done])
          (List.zipWith (fun q t => .query q (some t)) pre types ++ [.query p (some 0x0B)])
          (.ok (.port (some p))))

/-- With no port of type 0x0B every port is queried exactly once and the result is none, status OK; a failing query ends
the scan with the transport's error and no later port is queried (the spec's decision D14). -/
def Obligations.FindFirstSensorWithoutAMatch : Prop :=
  (∀ (s : State) (types : List Byte) (rest : List Answer),
    types.length = s.ports.length → 0x0B ∉ types → s.script = types.map (fun t => .ok [t]) ++ rest →
      exec .findFirstSensor s =
        .next (s.ended ((List.range (s.ports.length + 1)).map .scan ++ [.done])
          (List.zipWith (fun q t => .query q (some t)) s.ports types) (.ok (.port none)))) ∧
  (∀ (s : State) (pre post : List Port) (p : Port) (types : List Byte) (e : TransportError) (rest : List Answer),
    s.ports = pre ++ p :: post → types.length = pre.length → 0x0B ∉ types →
    s.script = types.map (fun t => .ok [t]) ++ .fail e :: rest →
      exec .findFirstSensor s =
        .next (s.ended ((List.range (pre.length + 1)).map .scan ++ [.done])
          (List.zipWith (fun q t => .query q (some t)) pre types ++ [.query p none]) (.transportFail e)))

/-- Whatever the transport answers: the scan queries a front part of `PORTS` in order, each once; every query but the last
was answered with another type than 0x0B; it ends at a match, at a failure (the spec's decision D14), exhausted, or stuck in
its last query (U18). -/
def Obligations.ScanOutcomes : Prop :=
  ∀ (s : State), ∃ (t : State) (answers : List (Option Byte)),
    exec .findFirstSensor s = .next t ∧ answers.length ≤ s.ports.length ∧
      t.trace = s.trace ++ List.zipWith (fun q a => .query q a) s.ports answers ∧
      (∀ a ∈ answers.dropLast, ∃ b, a = some b ∧ b ≠ 0x0B) ∧
      ((∃ p, s.ports[answers.length - 1]? = some p ∧ answers.getLast? = some (some 0x0B) ∧
          t.ph = none ∧ t.responses = s.responses ++ [.ok (.port (some p))]) ∨
       (∃ e, answers.getLast? = some none ∧ t.ph = none ∧ t.responses = s.responses ++ [.transportFail e]) ∨
       (answers.getLast? = some none ∧ t.ph = some (.scan (answers.length - 1)) ∧ t.responses = s.responses) ∨
       (answers.length = s.ports.length ∧ (∀ a ∈ answers, ∃ b, a = some b ∧ b ≠ 0x0B) ∧
          t.ph = none ∧ t.responses = s.responses ++ [.ok (.port none)]))

/-! ## Whole-machine rules -/

/-- The calls an operation makes, in whatever state and whatever is answered, are the calls of its own row of the operation
map, in the row's order, from the first on: no other register, no other length, no other operation's call, and no second call
before the first. The rows of the session operations are R57's and R92's; that a codec function has none is R96's, and one query
a port for the scan R270's. The spec's decisions in them: 0xE3 in getWhiteBalanceMode's row is D2 (log 13), 37 and 36 in the
signature rows D1 (log 12), `min(maxCount, 4)` D6. A front part of the row is less than R57's `exactly`: an operation may end
before its last call; how many calls it makes is the statement CallCounts. -/
def Obligations.EveryCallIsOnTheMap : Prop :=
  ∀ (i : Instr) (s t : State), exec i s = .next t →
    ∃ es : List Event, t.trace = s.trace ++ es ∧ es.map Event.shape <+: mapCalls s.ports.length i

/-- A session operation calls no port but its operand, and on the register-array double it changes no register of another
port. -/
def Obligations.OnlyTheNamedPortIsTouched : Prop :=
  ∀ (i : Instr) (s t : State) (p : Port), exec i s = .next t →
    (match i with
      | .getObjects q _ _ => q = p | .setSignature q _ => q = p | .getSignature q _ => q = p
      | .getBrightness q => q = p | .setBrightness q _ => q = p
      | .getWhiteBalanceMode q => q = p | .setWhiteBalanceMode q _ => q = p
      | .setWhiteBalance q _ => q = p | .getWhiteBalance q => q = p
      | .getLedMode q => q = p | .setLedMode q _ => q = p | .setLedColor q _ => q = p | .getLedColor q => q = p
      | _ => False) →
    (∃ es : List Event, t.trace = s.trace ++ es ∧ ∀ e ∈ es, e.port = p) ∧
    (∀ (q : Port) (r : Byte), q ≠ p → Memory.read t.memory (cellAddr q r) = Memory.read s.memory (cellAddr q r))

/-- An operation ends with exactly one response, or is stuck in a call that never returned and has delivered none. -/
def Obligations.OneResponseOrStuck : Prop :=
  ∀ (i : Instr) (s t : State), s.ph = none → exec i s = .next t →
    (t.ph = none ∧ ∃ r, t.responses = s.responses ++ [r]) ∨
    (∃ k, t.ph = some k ∧ t.responses = s.responses)

/-- A call that never returns leaves its operation in progress, the call in the trace and no response delivered: every
session operation, at its first call. -/
def Obligations.UnreturnedCallLeavesTheOperationInProgress : Prop :=
  ∀ (s : State) (p : Port),
    (∀ (i : Instr) (reg : Byte) (n : Nat),
      (i, reg, n) ∈ [(.getBrightness p, 0xE2, 1), (.getWhiteBalanceMode p, 0xE3, 1), (.getWhiteBalance p, 0xE4, 3),
        (.getLedMode p, 0xEB, 1), (.getLedColor p, 0xE7, 4)] →
      s.answerTo (.read p reg n) = .never →
        exec i s = .next (s.stuck [.check, .t1] [.read p reg n none] .t1 (.read p reg n))) ∧
    (∀ (i : Instr) (reg : Byte) (f : List Byte) (v lo hi : Byte) (m : WhiteBalanceMode) (l : LedMode) (c : RgbColor)
      (sig : HostSignature) (maxCount : Nat),
      v.toNat ≤ 100 → 0 < (hi ++ lo : Word16).toInt → maxCount ≠ 0 → 1 ≤ sig.id → sig.id ≤ 7 →
      (i, reg, f) ∈ [(.setBrightness p v, 0xE2, [v]), (.setWhiteBalanceMode p m, 0xE3, [wbCodeOf s.wbCode m]),
        (.setWhiteBalance p c, 0xE3, encodeWbSet s.wbCode c), (.setLedMode p l, 0xEB, [ledCodeOf s.ledCode l]),
        (.setLedColor p c, 0xE7, encodeLedSet s.ledCode c), (.getObjects p (hi ++ lo) maxCount, 0x24, [lo, hi]),
        (.setSignature p sig, 0xAF, encodeSignature (withId sig (narrowId sig.id))),
        (.getSignature p sig.id, 0xAF, [narrowId sig.id])] →
      s.answerTo (.write p reg f) = .never →
        exec i s = .next (s.stuck [.check, .t1] [.write p reg f] .t1 (.write p reg f)))

/-- `REJECTED` is answered by exactly the operations and operands of R281's list (`rejects`), a session operation's in phase
CHECK with no call made, and nothing else is recorded or changed. -/
def Obligations.RejectedExactlyWhenListed : Prop :=
  ∀ (i : Instr) (s : State),
    (rejects i = true → exec i s = .next
      (match i with
        | .packObjectRequest _ => { s with responses := s.responses ++ [.rejected] }
        | _ => s.ended [.check, .done] [] .rejected)) ∧
    (∀ t, exec i s = .next t → t.responses = s.responses ++ [.rejected] → rejects i = true)

/-- How many calls an operation makes: none when it is rejected; two for `getObjects` and `getSignature` when the write is
answered `ok`, else one (R206, R284); one for every other session operation (R230, R284); at most one a port for the scan (R270,
R284); none for a codec function (R96, R284). A call that never returns counts as made: that such an operation is a next state at
all is log 15 (DEDUCED), and that its call stands in the trace log 25 (DESIGN CHOICE). -/
def Obligations.CallCounts : Prop :=
  ∀ (i : Instr) (s t : State), exec i s = .next t →
    ∃ n, t.trace.length = s.trace.length + n ∧
      (match i with
        | .getObjects q id _ =>
          if id.toInt ≤ 0 then n = 0
          else if s.answerTo (.write q 0x24 [id.extractLsb' 0 8, id.extractLsb' 8 8]) = .ok [] then n = 2 else n = 1
        | .setSignature _ sig => if sig.id < 1 ∨ 7 < sig.id then n = 0 else n = 1
        | .getSignature q id =>
          if id < 1 ∨ 7 < id then n = 0
          else if s.answerTo (.write q 0xAF [BitVec.ofInt 8 id]) = .ok [] then n = 2 else n = 1
        | .getBrightness _ => n = 1 | .setBrightness _ _ => n = 1
        | .getWhiteBalanceMode _ => n = 1 | .setWhiteBalanceMode _ _ => n = 1
        | .setWhiteBalance _ _ => n = 1 | .getWhiteBalance _ => n = 1
        | .getLedMode _ => n = 1 | .setLedMode _ _ => n = 1
        | .setLedColor _ _ => n = 1 | .getLedColor _ => n = 1
        | .findFirstSensor => n ≤ s.ports.length
        | _ => n = 0)

/-- The block keeps nothing between operations: in two states with the same parameters and the same transport, an operation
delivers the same response, makes the same calls and leaves the same transport, whatever happened before. -/
def Obligations.NothingIsKeptBetweenOperations : Prop :=
  ∀ (i : Instr) (s₁ s₂ t₁ : State), s₁.SameEnvironment s₂ → s₁.ph = s₂.ph → exec i s₁ = .next t₁ →
    ∃ (t₂ : State) (rs : List Response) (es : List Event),
      exec i s₂ = .next t₂ ∧ t₁.SameEnvironment t₂ ∧ t₁.ph = t₂.ph ∧
      t₁.responses = s₁.responses ++ rs ∧ t₂.responses = s₂.responses ++ rs ∧
      t₁.trace = s₁.trace ++ es ∧ t₂.trace = s₂.trace ++ es

/-- Whether an operation has a next step is a matter of its operands alone, never of the transport's answers. -/
def Obligations.NextStepDependsOnOperandsAlone : Prop :=
  ∀ (i : Instr) (s : State), (∃ t, exec i s = .next t) ↔ runs i = true

/-- Every step keeps the invariant. -/
def Obligations.StepKeepsTheInvariant : Prop :=
  ∀ s t : State, s.Inv → step s = .next t → t.Inv

/-- The machine right after reset meets the invariant, whatever the ports are. -/
def Obligations.ResetMeetsTheInvariant : Prop := State.reset.Inv

/-- After reset no operation is in progress, the trace is empty and no request or response is there; a reset of a machine in
use abandons an operation in progress, delivers nothing and leaves the calls made as made. -/
def Obligations.ResetAbandonsTheOperation : Prop :=
  (State.reset.ph = none ∧ State.reset.trace = [] ∧ State.reset.responses = [] ∧ State.reset.requests = []) ∧
  (∀ s : State, s.abandon.ph = none ∧ s.abandon.responses = s.responses ∧ s.abandon.trace = s.trace ∧
    s.abandon.arrays = s.arrays ∧ s.abandon.memory = s.memory)

/-- Of the caller's arrays only the one that the request names (log 26) ever changes, and only in an operation that ends with
status OK and a list of objects, which then fills it (the spec's decision D27). -/
def Obligations.ArrayWrittenOnlyOnOk : Prop :=
  ∀ (i : Instr) (s t : State) (a : ArrayName), exec i s = .next t → t.arrayOf a ≠ s.arrayOf a →
    a = s.target ∧
      ∃ rs, t.responses = s.responses ++ [.ok (.objects rs)] ∧ t.arrayOf a = (s.arrayOf a).fill rs

/-- On the register-array double, byte `k` of a written frame is read back at the frame's register address plus `k`, and every
other cell of the array reads as before; an operation whose calls write nothing changes no cell. -/
def Obligations.WrittenBytesStandAtTheirRegisters : Prop :=
  (∀ (s : State) (p : Port) (reg : Byte) (bytes : List Byte), s.double = true → bytes.length ≤ 37 →
    (∀ (k : Nat) (h : k < bytes.length),
      Memory.read (memoryAfter s.double s.memory (.write p reg bytes) (.ok [])) (cellAddr p (reg + BitVec.ofNat 8 k)) =
        some bytes[k]) ∧
    (∀ a : Nat, (∀ k < bytes.length, a ≠ cellAddr p (reg + BitVec.ofNat 8 k)) →
      Memory.read (memoryAfter s.double s.memory (.write p reg bytes) (.ok [])) a = Memory.read s.memory a)) ∧
  (∀ (i : Instr) (s t : State) (es : List Event), exec i s = .next t → t.trace = s.trace ++ es →
    (∀ a : Nat,
      (∀ (p : Port) (reg : Byte) (bytes : List Byte), Event.write p reg bytes ∈ es →
        ∀ k < bytes.length, a ≠ cellAddr p (reg + BitVec.ofNat 8 k)) →
      Memory.read t.memory a = Memory.read s.memory a))

/-- On the register-array double, `getLedColor` after `setLedColor` returns the channels and the clamped brightness, and
`getLedMode` finds the manual code: one frame sets five registers. -/
def Obligations.DoubleReturnsTheLedColourSet : Prop :=
  ∀ (s t : State) (p : Port) (c : RgbColor), s.script = [] → s.double = true →
    exec (.setLedColor p c) s = .next t →
      ∃ v : Byte, v.toNat = min c.brightness.toNat 100 ∧
        exec (.getLedColor p) t =
          .next (t.ended [.check, .t1, .done] [.read p 0xE7 4 (some [v, c.red, c.green, c.blue])]
            (.ok (.color { red := c.red, green := c.green, blue := c.blue, brightness := v }))) ∧
        t.answerTo (.read p 0xEB 1) = .ok [s.ledCode.manual]

/-- A run, the execution of a finite list of requests to the end of the last (the spec's decision D24), of requests that decode
to operations with a next step is never refused. It ends with nothing left to present and one response a request, or with the
last operation stuck in a call that never returned; or it stops after an earlier operation got stuck so: a state with that
operation in progress was reached, in which every operation but it had answered (U18; log 15). -/
def Obligations.RunAnswersEveryRequest : Prop :=
  ∀ s : State, s.ph = none →
    (∀ r ∈ s.requests, ∃ i, decode r.image = .ok i ∧ runs i = true) →
      match Sys2Proof.core.run s.requests.length s with
      | .next t => State.requests t = [] ∧
          ((State.ph t = none ∧ (State.responses t).length = s.responses.length + s.requests.length) ∨
            (∃ k, State.ph t = some k ∧ (State.responses t).length + 1 = s.responses.length + s.requests.length))
      | .fault _ =>
          ∃ (n : Nat) (t : State) (k : Phase), n < s.requests.length ∧ Sys2Proof.core.run n s = .next t ∧
            t.ph = some k ∧ t.responses.length + 1 = s.responses.length + n
      | .refused _ => False
end

