-- ==== Sys2Proof/Laws/Operands.lean ====
section
/-! SUPPORT. The arithmetic of the operand forms, said once: joined, widened, doubled and clamped bytes, and the id
check. -/

namespace Sys2Proof.Machine

/-- Four bytes joined, as a number. -/
theorem join4_toNat (b0 b1 b2 b3 : Byte) :
    (b3 ++ b2 ++ b1 ++ b0 : BitVec (8 + 8 + 8 + 8)).toNat =
      b0.toNat + 2 ^ 8 * b1.toNat + 2 ^ 16 * b2.toNat + 2 ^ 24 * b3.toNat := by
  have h0 := b0.isLt
  have h1 := b1.isLt
  have h2 := b2.isLt
  simp only [BitVec.toNat_append]
  rw [← Nat.shiftLeft_add_eq_or_of_lt h2, ← Nat.shiftLeft_add_eq_or_of_lt h1, ← Nat.shiftLeft_add_eq_or_of_lt h0]
  simp only [Nat.shiftLeft_eq]
  omega

/-- Two bytes joined, as a number. -/
theorem join2_toNat (lo hi : Byte) : (hi ++ lo : BitVec (8 + 8)).toNat = lo.toNat + 256 * hi.toNat := by
  have h := lo.isLt
  rw [BitVec.toNat_append, ← Nat.shiftLeft_add_eq_or_of_lt h, Nat.shiftLeft_eq]
  omega

theorem doubled_toInt (b : Byte) : (doubled b).toInt = 2 * b.toNat := by
  have := b.isLt
  have h : (doubled b).toNat = 2 * b.toNat := by
    simp only [doubled, BitVec.toNat_mul, BitVec.toNat_setWidth, show (2 : Word16).toNat = 2 from rfl]
    omega
  rw [BitVec.toInt_eq_toNat_cond, h]
  split <;> omega

theorem widened_toInt (b : Byte) : (widened b).toInt = b.toNat := by
  have := b.isLt
  have h : (widened b).toNat = b.toNat := by
    simp only [widened, BitVec.toNat_setWidth]
    omega
  rw [BitVec.toInt_eq_toNat_cond, h]
  split <;> omega

theorem clampBrightness_toNat (b : Byte) : (clampBrightness b).toNat = min b.toNat 100 := by
  unfold clampBrightness brightMax
  split <;> simp_all
  omega

theorem validSigId_iff (id : Int) : validSigId id = true ↔ 1 ≤ id ∧ id ≤ 7 := by
  unfold validSigId
  rw [Bool.and_eq_true, decide_eq_true_eq, decide_eq_true_eq]
  exact Iff.rfl

/-- An accepted id keeps its value in the byte that goes on the wire (R203, D16). -/
theorem narrowId_toNat {id : Int} (h1 : 1 ≤ id) (h7 : id ≤ 7) : ((narrowId id).toNat : Int) = id := by
  have : id = 1 ∨ id = 2 ∨ id = 3 ∨ id = 4 ∨ id = 5 ∨ id = 6 ∨ id = 7 := by omega
  rcases this with rfl | rfl | rfl | rfl | rfl | rfl | rfl <;> decide

/-- What `join32` reads is what stands in the frame. -/
theorem holdsWord_join32 (f : List Byte) (off : Nat) : HoldsWord f off (join32 f off) := by
  intro j hj
  have q := join4_toNat (byteAt f off) (byteAt f (off + 1)) (byteAt f (off + 2)) (byteAt f (off + 3))
  have h0 := (byteAt f off).isLt
  have h1 := (byteAt f (off + 1)).isLt
  have h2 := (byteAt f (off + 2)).isLt
  have h3 := (byteAt f (off + 3)).isLt
  change _ = BitVec.toNat (byteAt f (off + 3) ++ byteAt f (off + 2) ++ byteAt f (off + 1) ++ byteAt f off
    : BitVec (8 + 8 + 8 + 8)) / _ % _
  rw [q]
  have : j = 0 ∨ j = 1 ∨ j = 2 ∨ j = 3 := by omega
  rcases this with rfl | rfl | rfl | rfl <;> simp only [byteAt, Nat.add_zero] at * <;> omega

/-- A frame holds one word at a place. -/
theorem join32_of_holdsWord {f : List Byte} {off : Nat} {v : Word32} (h : HoldsWord f off v) : join32 f off = v := by
  apply BitVec.eq_of_toNat_eq
  have q := holdsWord_join32 f off
  have a0 := (q 0 (by omega)).symm.trans (h 0 (by omega))
  have a1 := (q 1 (by omega)).symm.trans (h 1 (by omega))
  have a2 := (q 2 (by omega)).symm.trans (h 2 (by omega))
  have a3 := (q 3 (by omega)).symm.trans (h 3 (by omega))
  have := v.isLt
  have := (join32 f off).isLt
  omega

end Sys2Proof.Machine
end

