-- ==== Sys2Proof/Laws/Memory.lean ====
section
/-! SUPPORT. The laws of the register array and of the caller's arrays: a read after a write, and that every operation keeps
the form. -/

namespace Sys2Proof.Machine

variable {α : Type}

theorem Memory.read_write_same (m : List (Nat × α)) (x : Nat) (v : α) :
    Memory.read (Memory.write m x v) x = some v := by
  induction m with
  | nil => simp [Memory.write, Memory.read]
  | cons c m ih =>
    obtain ⟨a, b⟩ := c
    simp only [Memory.write]
    split
    · simp [Memory.read]
    · split
      · simp [Memory.read]
      · have h : a ≠ x := fun h => by simp_all
        simp [Memory.read, h, ih]

theorem Memory.read_write_other (m : List (Nat × α)) (x y : Nat) (v : α) (h : y ≠ x) :
    Memory.read (Memory.write m x v) y = Memory.read m y := by
  induction m with
  | nil => simp [Memory.write, Memory.read, Ne.symm h]
  | cons c m ih =>
    obtain ⟨a, b⟩ := c
    simp only [Memory.write]
    split
    · simp [Memory.read, Ne.symm h]
    · split
      · rename_i h2
        subst h2
        simp [Memory.read, Ne.symm h]
      · simp [Memory.read, ih]

theorem Memory.keys_write (m : List (Nat × α)) (x : Nat) (v : α) :
    ∀ k ∈ (Memory.write m x v).map Prod.fst, k = x ∨ k ∈ m.map Prod.fst := by
  induction m with
  | nil => simp [Memory.write]
  | cons c m ih =>
    obtain ⟨a, b⟩ := c
    intro k hk
    simp only [Memory.write] at hk
    split at hk
    · simpa using hk
    · split at hk
      · simp only [List.map_cons, List.mem_cons] at hk ⊢
        tauto
      · simp only [List.map_cons, List.mem_cons] at hk ⊢
        rcases hk with rfl | hk
        · exact .inr (.inl rfl)
        · rcases ih k hk with h | h
          · exact .inl h
          · exact .inr (.inr h)

theorem Memory.write_wf (m : List (Nat × α)) (x : Nat) (v : α) (h : Memory.wf m = true) :
    Memory.wf (Memory.write m x v) = true := by
  simp only [Memory.wf, decide_eq_true_eq] at h ⊢
  induction m with
  | nil => simp [Memory.write]
  | cons c m ih =>
    obtain ⟨a, b⟩ := c
    simp only [List.map_cons, List.pairwise_cons] at h
    simp only [Memory.write]
    split
    · rename_i hx
      simp only [List.map_cons, List.pairwise_cons, List.mem_cons]
      refine ⟨?_, h.1, h.2⟩
      rintro k (rfl | hk)
      · exact hx
      · exact hx.trans (h.1 k hk)
    · split
      · rename_i hx
        subst hx
        simp only [List.map_cons, List.pairwise_cons]
        exact h
      · simp only [List.map_cons, List.pairwise_cons]
        refine ⟨fun k hk => ?_, ih h.2⟩
        rcases Memory.keys_write m x v k hk with rfl | hk
        · omega
        · exact h.1 k hk

theorem Memory.writeBytes_wf (bs : List Byte) :
    ∀ (m : List Host.Cell) (port : Port) (reg : Byte), Memory.wf m = true →
      Memory.wf (Memory.writeBytes m port reg bs) = true := by
  induction bs with
  | nil => exact fun _ _ _ h => h
  | cons b bs ih => exact fun m port reg h => ih _ _ _ (Memory.write_wf m _ _ h)

theorem reg_succ (reg : Byte) (k : Nat) : reg + 1 + BitVec.ofNat 8 k = reg + BitVec.ofNat 8 (k + 1) := by
  apply BitVec.eq_of_toNat_eq
  simp only [BitVec.toNat_add, BitVec.toNat_ofNat, show (1 : Byte).toNat = 1 from rfl]
  omega

/-- A cell none of the stored bytes lies in reads as before. -/
theorem Memory.read_writeBytes_other (bs : List Byte) :
    ∀ (m : List Host.Cell) (port : Port) (reg : Byte) (x : Nat),
      (∀ k < bs.length, x ≠ cellAddr port (reg + BitVec.ofNat 8 k)) →
      Memory.read (Memory.writeBytes m port reg bs) x = Memory.read m x := by
  induction bs with
  | nil => exact fun _ _ _ _ _ => rfl
  | cons b bs ih =>
    intro m port reg x h
    have h0 := h 0 (by simp)
    rw [Memory.writeBytes, ih, Memory.read_write_other]
    · simpa using h0
    · intro k hk
      have := h (k + 1) (by simpa using hk)
      rwa [reg_succ]

theorem cellAddr_inj {p q : Port} {r r' : Byte} (h : cellAddr p r = cellAddr q r') : p = q ∧ r = r' := by
  have h1 := r.isLt
  have h2 := r'.isLt
  simp only [cellAddr] at h
  refine ⟨?_, BitVec.eq_of_toNat_eq (by omega)⟩
  cases p; cases q
  simp only [Port.mk.injEq] at *
  omega

/-- Within one register space the stored bytes read back, byte `k` at `reg + k` (R54). -/
theorem Memory.read_writeBytes_same (bs : List Byte) :
    ∀ (m : List Host.Cell) (port : Port) (reg : Byte) (k : Nat), bs.length ≤ 256 → (hk : k < bs.length) →
      Memory.read (Memory.writeBytes m port reg bs) (cellAddr port (reg + BitVec.ofNat 8 k)) = some bs[k] := by
  induction bs with
  | nil => exact fun _ _ _ _ _ hk => by simp at hk
  | cons b bs ih =>
    intro m port reg k hl hk
    simp only [List.length_cons] at hl hk
    cases k with
    | zero =>
      rw [Memory.writeBytes, Memory.read_writeBytes_other]
      · simp [Memory.read_write_same]
      · intro j hj h
        have h3 := (cellAddr_inj h).2
        have h4 : (BitVec.ofNat 8 (j + 1)) = 0 := by
          rw [reg_succ] at h3
          simpa using h3.symm
        have h5 := congrArg BitVec.toNat h4
        simp only [BitVec.toNat_ofNat] at h5
        have : (0 : BitVec 8).toNat = 0 := rfl
        omega
    | succ k =>
      have := ih (Memory.write m (cellAddr port reg) b) port (reg + 1) k (by omega) (by omega)
      rw [reg_succ] at this
      simpa [Memory.writeBytes] using this

theorem Memory.read_erase_same (m : List (Nat × α)) (x : Nat) : Memory.read (Memory.erase m x) x = none := by
  induction m with
  | nil => rfl
  | cons c m ih =>
    by_cases h : c.1 = x <;> simp_all [Memory.erase, Memory.read]

theorem Memory.read_erase_other (m : List (Nat × α)) (x y : Nat) (h : y ≠ x) :
    Memory.read (Memory.erase m x) y = Memory.read m y := by
  induction m with
  | nil => rfl
  | cons c m ih =>
    by_cases hc : c.1 = x <;> simp_all [Memory.erase, Memory.read, Ne.symm h]

theorem Memory.erase_wf (m : List (Nat × α)) (x : Nat) (h : Memory.wf m = true) : Memory.wf (Memory.erase m x) = true := by
  simp only [Memory.wf, decide_eq_true_eq] at h ⊢
  exact h.sublist (List.filter_sublist.map _)

theorem Memory.mem_write (m : List (Nat × α)) (x : Nat) (v : α) : ∀ c ∈ Memory.write m x v, c = (x, v) ∨ c ∈ m := by
  induction m with
  | nil => simp [Memory.write]
  | cons d m ih =>
    intro c hc
    simp only [Memory.write] at hc
    split at hc
    · simpa using hc
    · split at hc <;> simp only [List.mem_cons] at hc ⊢
      · tauto
      · rcases hc with rfl | hc
        · exact .inr (.inl rfl)
        · exact (ih c hc).imp_right .inr

theorem reset_memory_wf : Memory.wf State.reset.memory = true := rfl

/-! ## The caller's arrays -/

/-- What an array holds after it, or another, was replaced. -/
theorem readArray_writeArray (m : List (Nat × ObjArray)) (a b : ArrayName) (v : ObjArray) :
    readArray (writeArray m a v) b = if b = a then v else readArray m b := by
  by_cases h : b = a
  · subst h
    by_cases hv : v = zeroArray
    · simp [readArray, writeArray, hv, Memory.read_erase_same]
    · simp [readArray, writeArray, hv, Memory.read_write_same]
  · have ht : b.token ≠ a.token := fun q => h (by cases a; cases b; simp_all)
    by_cases hv : v = zeroArray
    · simp [readArray, writeArray, hv, h, Memory.read_erase_other _ _ _ ht]
    · simp [readArray, writeArray, hv, h, Memory.read_write_other _ _ _ _ ht]

theorem writeArray_wf (m : List (Nat × ObjArray)) (a : ArrayName) (v : ObjArray) (h : arraysWf m = true) :
    arraysWf (writeArray m a v) = true := by
  simp only [arraysWf, Bool.and_eq_true, List.all_eq_true, decide_eq_true_eq] at h ⊢
  by_cases hv : v = zeroArray
  · simp only [writeArray, hv, if_true]
    exact ⟨Memory.erase_wf _ _ h.1, fun c hc => h.2 c (List.mem_filter.1 hc).1⟩
  · simp only [writeArray, hv, if_false]
    refine ⟨Memory.write_wf _ _ _ h.1, fun c hc => ?_⟩
    rcases Memory.mem_write _ _ _ c hc with rfl | hc
    · exact hv
    · exact h.2 c hc

/-- Filling changes the array the request names and no other (R145). -/
theorem arrayOf_fillArray (s : State) (rs : List ObjectReading) (a : ArrayName) :
    (s.fillArray rs).arrayOf a = if a = s.target then s.array.fill rs else s.arrayOf a :=
  readArray_writeArray _ _ _ _

theorem reset_arrays_wf : arraysWf State.reset.arrays = true := rfl

end Sys2Proof.Machine
end

