-- ==== Sys2Proof/Laws/State.lean ====
section
/-! SUPPORT. One lemma per field per named update of the state, true by rfl. -/

namespace Sys2Proof.Machine

variable (s : State)

@[simp] theorem State.enter_ports (k : Phase) : (s.enter k).ports = s.ports := rfl
@[simp] theorem State.enter_wbCode (k : Phase) : (s.enter k).wbCode = s.wbCode := rfl
@[simp] theorem State.enter_ledCode (k : Phase) : (s.enter k).ledCode = s.ledCode := rfl
@[simp] theorem State.enter_requests (k : Phase) : (s.enter k).requests = s.requests := rfl
@[simp] theorem State.enter_ph (k : Phase) : (s.enter k).ph = some k := rfl
@[simp] theorem State.enter_phLog (k : Phase) : (s.enter k).phLog = s.phLog ++ [k] := rfl
@[simp] theorem State.enter_txbuf (k : Phase) : (s.enter k).txbuf = s.txbuf := rfl
@[simp] theorem State.enter_rxbuf (k : Phase) : (s.enter k).rxbuf = s.rxbuf := rfl
@[simp] theorem State.enter_responses (k : Phase) : (s.enter k).responses = s.responses := rfl
@[simp] theorem State.enter_trace (k : Phase) : (s.enter k).trace = s.trace := rfl
@[simp] theorem State.enter_array (k : Phase) : (s.enter k).array = s.array := rfl
@[simp] theorem State.enter_arrays (k : Phase) : (s.enter k).arrays = s.arrays := rfl
@[simp] theorem State.enter_target (k : Phase) : (s.enter k).target = s.target := rfl
@[simp] theorem State.enter_script (k : Phase) : (s.enter k).script = s.script := rfl
@[simp] theorem State.enter_double (k : Phase) : (s.enter k).double = s.double := rfl
@[simp] theorem State.enter_memory (k : Phase) : (s.enter k).memory = s.memory := rfl
@[simp] theorem State.enter_draws (k : Phase) : (s.enter k).draws = s.draws := rfl

@[simp] theorem State.afterCall_ports (c : Call) (a : Answer) : (s.afterCall c a).ports = s.ports := rfl
@[simp] theorem State.afterCall_wbCode (c : Call) (a : Answer) : (s.afterCall c a).wbCode = s.wbCode := rfl
@[simp] theorem State.afterCall_ledCode (c : Call) (a : Answer) : (s.afterCall c a).ledCode = s.ledCode := rfl
@[simp] theorem State.afterCall_requests (c : Call) (a : Answer) : (s.afterCall c a).requests = s.requests := rfl
@[simp] theorem State.afterCall_ph (c : Call) (a : Answer) : (s.afterCall c a).ph = s.ph := rfl
@[simp] theorem State.afterCall_phLog (c : Call) (a : Answer) : (s.afterCall c a).phLog = s.phLog := rfl
@[simp] theorem State.afterCall_txbuf (c : Call) (a : Answer) : (s.afterCall c a).txbuf = c.sent := rfl
@[simp] theorem State.afterCall_rxbuf (c : Call) (a : Answer) : (s.afterCall c a).rxbuf = a.bytes?.getD [] := rfl
@[simp] theorem State.afterCall_responses (c : Call) (a : Answer) : (s.afterCall c a).responses = s.responses := rfl
@[simp] theorem State.afterCall_trace (c : Call) (a : Answer) : (s.afterCall c a).trace = s.trace ++ [c.event a.bytes?] := rfl
@[simp] theorem State.afterCall_array (c : Call) (a : Answer) : (s.afterCall c a).array = s.array := rfl
@[simp] theorem State.afterCall_arrays (c : Call) (a : Answer) : (s.afterCall c a).arrays = s.arrays := rfl
@[simp] theorem State.afterCall_target (c : Call) (a : Answer) : (s.afterCall c a).target = s.target := rfl
@[simp] theorem State.afterCall_script (c : Call) (a : Answer) : (s.afterCall c a).script = s.script.tail := rfl
@[simp] theorem State.afterCall_double (c : Call) (a : Answer) : (s.afterCall c a).double = s.double := rfl
@[simp] theorem State.afterCall_memory (c : Call) (a : Answer) : (s.afterCall c a).memory = memoryAfter s.double s.memory c a := rfl
@[simp] theorem State.afterCall_draws (c : Call) (a : Answer) : (s.afterCall c a).draws = s.draws + 1 := rfl

@[simp] theorem State.respond_ports (r : Response) : (s.respond r).ports = s.ports := rfl
@[simp] theorem State.respond_wbCode (r : Response) : (s.respond r).wbCode = s.wbCode := rfl
@[simp] theorem State.respond_ledCode (r : Response) : (s.respond r).ledCode = s.ledCode := rfl
@[simp] theorem State.respond_requests (r : Response) : (s.respond r).requests = s.requests := rfl
@[simp] theorem State.respond_ph (r : Response) : (s.respond r).ph = s.ph := rfl
@[simp] theorem State.respond_phLog (r : Response) : (s.respond r).phLog = s.phLog := rfl
@[simp] theorem State.respond_txbuf (r : Response) : (s.respond r).txbuf = s.txbuf := rfl
@[simp] theorem State.respond_rxbuf (r : Response) : (s.respond r).rxbuf = s.rxbuf := rfl
@[simp] theorem State.respond_responses (r : Response) : (s.respond r).responses = s.responses ++ [r] := rfl
@[simp] theorem State.respond_trace (r : Response) : (s.respond r).trace = s.trace := rfl
@[simp] theorem State.respond_array (r : Response) : (s.respond r).array = s.array := rfl
@[simp] theorem State.respond_arrays (r : Response) : (s.respond r).arrays = s.arrays := rfl
@[simp] theorem State.respond_target (r : Response) : (s.respond r).target = s.target := rfl
@[simp] theorem State.respond_script (r : Response) : (s.respond r).script = s.script := rfl
@[simp] theorem State.respond_double (r : Response) : (s.respond r).double = s.double := rfl
@[simp] theorem State.respond_memory (r : Response) : (s.respond r).memory = s.memory := rfl
@[simp] theorem State.respond_draws (r : Response) : (s.respond r).draws = s.draws := rfl

@[simp] theorem State.deliver_ports (r : Response) : (s.deliver r).ports = s.ports := rfl
@[simp] theorem State.deliver_wbCode (r : Response) : (s.deliver r).wbCode = s.wbCode := rfl
@[simp] theorem State.deliver_ledCode (r : Response) : (s.deliver r).ledCode = s.ledCode := rfl
@[simp] theorem State.deliver_requests (r : Response) : (s.deliver r).requests = s.requests := rfl
@[simp] theorem State.deliver_ph (r : Response) : (s.deliver r).ph = none := rfl
@[simp] theorem State.deliver_phLog (r : Response) : (s.deliver r).phLog = s.phLog ++ [.done] := rfl
@[simp] theorem State.deliver_txbuf (r : Response) : (s.deliver r).txbuf = [] := rfl
@[simp] theorem State.deliver_rxbuf (r : Response) : (s.deliver r).rxbuf = [] := rfl
@[simp] theorem State.deliver_responses (r : Response) : (s.deliver r).responses = s.responses ++ [r] := rfl
@[simp] theorem State.deliver_trace (r : Response) : (s.deliver r).trace = s.trace := rfl
@[simp] theorem State.deliver_array (r : Response) : (s.deliver r).array = s.array := rfl
@[simp] theorem State.deliver_arrays (r : Response) : (s.deliver r).arrays = s.arrays := rfl
@[simp] theorem State.deliver_target (r : Response) : (s.deliver r).target = s.target := rfl
@[simp] theorem State.deliver_script (r : Response) : (s.deliver r).script = s.script := rfl
@[simp] theorem State.deliver_double (r : Response) : (s.deliver r).double = s.double := rfl
@[simp] theorem State.deliver_memory (r : Response) : (s.deliver r).memory = s.memory := rfl
@[simp] theorem State.deliver_draws (r : Response) : (s.deliver r).draws = s.draws := rfl

@[simp] theorem State.fillArray_ports (rs : List ObjectReading) : (s.fillArray rs).ports = s.ports := rfl
@[simp] theorem State.fillArray_wbCode (rs : List ObjectReading) : (s.fillArray rs).wbCode = s.wbCode := rfl
@[simp] theorem State.fillArray_ledCode (rs : List ObjectReading) : (s.fillArray rs).ledCode = s.ledCode := rfl
@[simp] theorem State.fillArray_requests (rs : List ObjectReading) : (s.fillArray rs).requests = s.requests := rfl
@[simp] theorem State.fillArray_ph (rs : List ObjectReading) : (s.fillArray rs).ph = s.ph := rfl
@[simp] theorem State.fillArray_phLog (rs : List ObjectReading) : (s.fillArray rs).phLog = s.phLog := rfl
@[simp] theorem State.fillArray_txbuf (rs : List ObjectReading) : (s.fillArray rs).txbuf = s.txbuf := rfl
@[simp] theorem State.fillArray_rxbuf (rs : List ObjectReading) : (s.fillArray rs).rxbuf = s.rxbuf := rfl
@[simp] theorem State.fillArray_responses (rs : List ObjectReading) : (s.fillArray rs).responses = s.responses := rfl
@[simp] theorem State.fillArray_trace (rs : List ObjectReading) : (s.fillArray rs).trace = s.trace := rfl
@[simp] theorem State.fillArray_arrays (rs : List ObjectReading) :
    (s.fillArray rs).arrays = writeArray s.arrays s.target (s.array.fill rs) := rfl
@[simp] theorem State.fillArray_target (rs : List ObjectReading) : (s.fillArray rs).target = s.target := rfl
@[simp] theorem State.fillArray_script (rs : List ObjectReading) : (s.fillArray rs).script = s.script := rfl
@[simp] theorem State.fillArray_double (rs : List ObjectReading) : (s.fillArray rs).double = s.double := rfl
@[simp] theorem State.fillArray_memory (rs : List ObjectReading) : (s.fillArray rs).memory = s.memory := rfl
@[simp] theorem State.fillArray_draws (rs : List ObjectReading) : (s.fillArray rs).draws = s.draws := rfl

@[simp] theorem State.abandon_ports : s.abandon.ports = s.ports := rfl
@[simp] theorem State.abandon_wbCode : s.abandon.wbCode = s.wbCode := rfl
@[simp] theorem State.abandon_ledCode : s.abandon.ledCode = s.ledCode := rfl
@[simp] theorem State.abandon_requests : s.abandon.requests = s.requests := rfl
@[simp] theorem State.abandon_ph : s.abandon.ph = none := rfl
@[simp] theorem State.abandon_phLog : s.abandon.phLog = s.phLog := rfl
@[simp] theorem State.abandon_txbuf : s.abandon.txbuf = [] := rfl
@[simp] theorem State.abandon_rxbuf : s.abandon.rxbuf = [] := rfl
@[simp] theorem State.abandon_responses : s.abandon.responses = s.responses := rfl
@[simp] theorem State.abandon_trace : s.abandon.trace = s.trace := rfl
@[simp] theorem State.abandon_array : s.abandon.array = s.array := rfl
@[simp] theorem State.abandon_arrays : s.abandon.arrays = s.arrays := rfl
@[simp] theorem State.abandon_target : s.abandon.target = s.target := rfl
@[simp] theorem State.abandon_script : s.abandon.script = s.script := rfl
@[simp] theorem State.abandon_double : s.abandon.double = s.double := rfl
@[simp] theorem State.abandon_memory : s.abandon.memory = s.memory := rfl
@[simp] theorem State.abandon_draws : s.abandon.draws = s.draws := rfl

@[simp] theorem State.present_ports (image : List Byte) : (s.present image).ports = s.ports := rfl
@[simp] theorem State.present_wbCode (image : List Byte) : (s.present image).wbCode = s.wbCode := rfl
@[simp] theorem State.present_ledCode (image : List Byte) : (s.present image).ledCode = s.ledCode := rfl
@[simp] theorem State.present_requests (image : List Byte) :
    (s.present image).requests = { image := image, array := s.target } :: s.requests := rfl
@[simp] theorem State.present_ph (image : List Byte) : (s.present image).ph = none := rfl
@[simp] theorem State.present_phLog (image : List Byte) : (s.present image).phLog = s.phLog := rfl
@[simp] theorem State.present_txbuf (image : List Byte) : (s.present image).txbuf = s.txbuf := rfl
@[simp] theorem State.present_rxbuf (image : List Byte) : (s.present image).rxbuf = s.rxbuf := rfl
@[simp] theorem State.present_responses (image : List Byte) : (s.present image).responses = s.responses := rfl
@[simp] theorem State.present_trace (image : List Byte) : (s.present image).trace = s.trace := rfl
@[simp] theorem State.present_array (image : List Byte) : (s.present image).array = s.array := rfl
@[simp] theorem State.present_arrays (image : List Byte) : (s.present image).arrays = s.arrays := rfl
@[simp] theorem State.present_target (image : List Byte) : (s.present image).target = s.target := rfl
@[simp] theorem State.present_script (image : List Byte) : (s.present image).script = s.script := rfl
@[simp] theorem State.present_double (image : List Byte) : (s.present image).double = s.double := rfl
@[simp] theorem State.present_memory (image : List Byte) : (s.present image).memory = s.memory := rfl
@[simp] theorem State.present_draws (image : List Byte) : (s.present image).draws = s.draws := rfl

end Sys2Proof.Machine
end

