-- ==== Sys2Proof/Laws/Transport.lean ====
section
/-! SUPPORT. What a transport call can do, said once: the answer fits the call, it depends on the environment alone, and
`transact` goes on, fails or stays. -/

namespace Sys2Proof.Machine

variable {s : State} {c : Call} {k : Phase} {next : List Byte → State → State}

theorem freeAnswer_fits (n : Nat) (c : Call) : (freeAnswer n c).fits c = true := by
  unfold freeAnswer
  split <;> simp [Answer.fits, freeBytes]

theorem doubleAnswer_fits (m : List Host.Cell) (n : Nat) (c : Call) : (doubleAnswer m n c).fits c = true := by
  cases c with
  | write p r b => simp [doubleAnswer, Answer.fits, Call.answerLen]
  | read p r b => simp [doubleAnswer, Answer.fits, Call.answerLen, Memory.readBytes]
  | query p => exact freeAnswer_fits _ _

theorem unscriptedAnswer_fits (s : State) (c : Call) : (s.unscriptedAnswer c).fits c = true := by
  unfold State.unscriptedAnswer
  split
  · exact doubleAnswer_fits _ _ _
  · exact freeAnswer_fits _ _

/-- The next scripted answer is given when it fits. -/
theorem answerTo_scripted {a : Answer} {rest : List Answer} (h : s.script = a :: rest) (hf : a.fits c = true) :
    s.answerTo c = a := by
  simp [State.answerTo, h, hf]

/-- An answer depends on the script, the double, its register array and the draw counter alone. -/
theorem answerTo_congr {s t : State} (c : Call) (h1 : s.script = t.script) (h2 : s.double = t.double)
    (h3 : s.memory = t.memory) (h4 : s.draws = t.draws) : s.answerTo c = t.answerTo c := by
  simp [State.answerTo, State.unscriptedAnswer, h1, h2, h3, h4]

@[simp] theorem answerTo_enter (s : State) (k : Phase) (c : Call) : (s.enter k).answerTo c = s.answerTo c :=
  answerTo_congr c rfl rfl rfl rfl

@[simp] theorem memoryAfter_fail (d : Bool) (m : List Host.Cell) (c : Call) (e : TransportError) :
    memoryAfter d m c (.fail e) = m := by
  cases c <;> rfl

@[simp] theorem memoryAfter_never (d : Bool) (m : List Host.Cell) (c : Call) : memoryAfter d m c .never = m := by
  cases c <;> rfl

@[simp] theorem memoryAfter_read (d : Bool) (m : List Host.Cell) (p : Port) (r : Byte) (n : Nat) (a : Answer) :
    memoryAfter d m (.read p r n) a = m := rfl

@[simp] theorem memoryAfter_query (d : Bool) (m : List Host.Cell) (p : Port) (a : Answer) :
    memoryAfter d m (.query p) a = m := rfl

theorem memoryAfter_wf (d : Bool) (m : List Host.Cell) (c : Call) (a : Answer) (h : Memory.wf m = true) :
    Memory.wf (memoryAfter d m c a) = true := by
  unfold memoryAfter
  split
  · split
    · exact Memory.writeBytes_wf _ _ _ _ h
    · exact h
  · exact h

theorem transact_ok {b : List Byte} (h : s.answerTo c = .ok b) :
    s.transact k c next = next b ((s.enter k).afterCall c (.ok b)) := by
  simp [State.transact, h]

theorem transact_fail {e : TransportError} (h : s.answerTo c = .fail e) :
    s.transact k c next = ((s.enter k).afterCall c (.fail e)).transportFailed e := by
  simp [State.transact, h]

theorem transact_never (h : s.answerTo c = .never) :
    s.transact k c next = (s.enter k).afterCall c .never := by
  simp [State.transact, h]

/-- Everything `transact` can do. -/
theorem transact_cases (s : State) (k : Phase) (c : Call) (next : List Byte → State → State) :
    (∃ b, s.answerTo c = .ok b ∧ s.transact k c next = next b ((s.enter k).afterCall c (.ok b))) ∨
    (∃ e, s.answerTo c = .fail e ∧
      s.transact k c next = ((s.enter k).afterCall c (.fail e)).transportFailed e) ∨
    (s.answerTo c = .never ∧ s.transact k c next = (s.enter k).afterCall c .never) := by
  cases h : s.answerTo c with
  | ok b => exact .inl ⟨b, rfl, transact_ok h⟩
  | fail e => exact .inr (.inl ⟨e, rfl, transact_fail h⟩)
  | never => exact .inr (.inr ⟨rfl, transact_never h⟩)

end Sys2Proof.Machine
end

