-- ==== Sys2Proof/Laws/Session.lean ====
section
/-! SUPPORT. How an operation ends, said once for each shape: rejected, one call, two calls. A proof about a session
operation rewrites its call with `transact_ok`, `transact_fail` or `transact_never` and then cites one of these. -/

namespace Sys2Proof.Machine

theorem reject_eq_ended (s : State) : s.reject = s.ended [.check, .done] [] .rejected := by
  simp [State.reject, State.deliver, State.enter, State.ended]

/-- One call answered, then the response. -/
theorem oneCall_deliver (s : State) (c : Call) (a : Answer) (r : Response) :
    (((s.enter .check).enter .t1).afterCall c a).deliver r =
      { s.ended [.check, .t1, .done] [c.event a.bytes?] r with memory := memoryAfter s.double s.memory c a } := by
  simp [State.deliver, State.enter, State.afterCall, State.ended]

/-- Two calls answered, then the response. -/
theorem twoCalls_deliver (s : State) (c d : Call) (a b : Answer) (r : Response) :
    ((((((s.enter .check).enter .t1).afterCall c a)).enter .t2).afterCall d b).deliver r =
      { s.ended [.check, .t1, .t2, .done] [c.event a.bytes?, d.event b.bytes?] r with
        memory := memoryAfter s.double (memoryAfter s.double s.memory c a) d b } := by
  simp [State.deliver, State.enter, State.afterCall, State.ended, ← List.drop_one]

/-- The first call never returned. -/
theorem oneCall_never (s : State) (c : Call) :
    ((s.enter .check).enter .t1).afterCall c .never = s.stuck [.check, .t1] [c.event none] .t1 c := by
  simp [State.enter, State.afterCall, State.stuck, Answer.bytes?]

/-- The second call never returned. -/
theorem twoCalls_never (s : State) (c d : Call) (a : Answer) :
    ((((s.enter .check).enter .t1).afterCall c a).enter .t2).afterCall d .never =
      { s.stuck [.check, .t1, .t2] [c.event a.bytes?, d.event none] .t2 d with
        memory := memoryAfter s.double s.memory c a } := by
  simp [State.enter, State.afterCall, State.stuck, Answer.bytes?, ← List.drop_one]

/-- The phase and the buffers have no part in an answer. -/
theorem answerTo_second (s : State) (c d : Call) (a : Answer) :
    (((s.enter .check).enter .t1).afterCall c a).answerTo d = (s.afterCall c a).answerTo d :=
  answerTo_congr d rfl rfl rfl rfl

/-- Everything an operation of one call and one response can do. -/
theorem oneCall_cases (s : State) (c : Call) (r : List Byte → Response) :
    let t := (s.enter .check).transact .t1 c fun b u => u.deliver (r b)
    (∃ b, s.answerTo c = .ok b ∧
      t = { s.ended [.check, .t1, .done] [c.event (some b)] (r b) with
            memory := memoryAfter s.double s.memory c (.ok b) }) ∨
    (∃ e, s.answerTo c = .fail e ∧ t = s.ended [.check, .t1, .done] [c.event none] (.transportFail e)) ∨
    (s.answerTo c = .never ∧ t = s.stuck [.check, .t1] [c.event none] .t1 c) := by
  intro t
  rcases transact_cases (s.enter .check) .t1 c (fun b u => u.deliver (r b)) with ⟨b, h, e⟩ | ⟨x, h, e⟩ | ⟨h, e⟩
  · exact .inl ⟨b, by simpa using h, e.trans (oneCall_deliver _ _ _ _)⟩
  · refine .inr (.inl ⟨x, by simpa using h, e.trans ?_⟩)
    rw [State.transportFailed, oneCall_deliver]
    simp [Answer.bytes?, State.ended]
  · exact .inr (.inr ⟨by simpa using h, e.trans (oneCall_never _ _)⟩)

/-- Everything an operation of two calls can do, the second chosen beforehand; `fin` is what it does with the bytes of the
second before it delivers the response. -/
theorem twoCalls_cases (s : State) (c d : Call) (fin : List Byte → State → State) :
    let u := ((s.enter .check).enter .t1).afterCall c
    let t := (s.enter .check).transact .t1 c fun _ u => u.transact .t2 d fin
    (∃ a b, s.answerTo c = .ok a ∧ (s.afterCall c (.ok a)).answerTo d = .ok b ∧
      t = fin b (((u (.ok a)).enter .t2).afterCall d (.ok b))) ∨
    (∃ e, s.answerTo c = .fail e ∧ t = s.ended [.check, .t1, .done] [c.event none] (.transportFail e)) ∨
    (s.answerTo c = .never ∧ t = s.stuck [.check, .t1] [c.event none] .t1 c) ∨
    (∃ a e, s.answerTo c = .ok a ∧ (s.afterCall c (.ok a)).answerTo d = .fail e ∧
      t = { s.ended [.check, .t1, .t2, .done] [c.event (some a), d.event none] (.transportFail e) with
            memory := memoryAfter s.double s.memory c (.ok a) }) ∨
    (∃ a, s.answerTo c = .ok a ∧ (s.afterCall c (.ok a)).answerTo d = .never ∧
      t = { s.stuck [.check, .t1, .t2] [c.event (some a), d.event none] .t2 d with
            memory := memoryAfter s.double s.memory c (.ok a) }) := by
  intro u t
  rcases transact_cases (s.enter .check) .t1 c (fun _ u => u.transact .t2 d fin) with ⟨a, h, e⟩ | ⟨x, h, e⟩ | ⟨h, e⟩
  · rcases transact_cases (((s.enter .check).enter .t1).afterCall c (.ok a)) .t2 d fin with
      ⟨b, h2, e2⟩ | ⟨x, h2, e2⟩ | ⟨h2, e2⟩
    · exact .inl ⟨a, b, by simpa using h, by rw [← h2, answerTo_second], e.trans e2⟩
    · refine .inr (.inr (.inr (.inl ⟨a, x, by simpa using h, by rw [← h2, answerTo_second], ?_⟩)))
      refine (e.trans e2).trans ?_
      rw [State.transportFailed, twoCalls_deliver]
      simp [Answer.bytes?]
    · refine .inr (.inr (.inr (.inr ⟨a, by simpa using h, by rw [← h2, answerTo_second], ?_⟩)))
      exact (e.trans e2).trans (twoCalls_never _ _ _ _)
  · refine .inr (.inl ⟨x, by simpa using h, e.trans ?_⟩)
    rw [State.transportFailed, oneCall_deliver]
    simp [Answer.bytes?, State.ended]
  · exact .inr (.inr (.inl ⟨by simpa using h, e.trans (oneCall_never _ _)⟩))

end Sys2Proof.Machine
end

