-- ==== Sys2Proof/Laws/Exec.lean ====
section
/-! SUPPORT. Everything an operation can do, said once: the calls each can make, the outcomes of a one-call get and set and
of one query of the scan, and the principle by which a property kept by the sequencer's operations is kept by every
operation. -/

namespace Sys2Proof.Machine

/-- Every outcome of a one-call get. -/
theorem runGet_cases (s : State) (p : Port) (reg : Byte) (n : Nat) (f : List Byte → Result) :
    (∃ b, s.answerTo (.read p reg n) = .ok b ∧
      runGet p reg n f s = s.ended [.check, .t1, .done] [.read p reg n (some b)] (.ok (f b))) ∨
    (∃ e, s.answerTo (.read p reg n) = .fail e ∧
      runGet p reg n f s = s.ended [.check, .t1, .done] [.read p reg n none] (.transportFail e)) ∨
    (s.answerTo (.read p reg n) = .never ∧
      runGet p reg n f s = s.stuck [.check, .t1] [.read p reg n none] .t1 (.read p reg n)) :=
  oneCall_cases s (.read p reg n) fun b => .ok (f b)

/-- Every outcome of one write followed by a response. -/
theorem oneWrite_cases (s : State) (p : Port) (reg : Byte) (f : List Byte) (r : Response) :
    let t := (s.enter .check).transact .t1 (.write p reg f) fun _ u => u.deliver r
    (∃ b, s.answerTo (.write p reg f) = .ok b ∧
      t = { s.ended [.check, .t1, .done] [.write p reg f] r with
            memory := memoryAfter s.double s.memory (.write p reg f) (.ok b) }) ∨
    (∃ e, s.answerTo (.write p reg f) = .fail e ∧
      t = s.ended [.check, .t1, .done] [.write p reg f] (.transportFail e)) ∨
    (s.answerTo (.write p reg f) = .never ∧
      t = s.stuck [.check, .t1] [.write p reg f] .t1 (.write p reg f)) :=
  oneCall_cases s (.write p reg f) fun _ => r

/-- Every outcome of one query of the scan: a match, the next port, a failure, a query that never returns. -/
theorem scanPorts_cases (s : State) (k : Nat) (p : Port) (rest : List Port) :
    let u := fun a => (s.enter (.scan k)).afterCall (.query p) a
    let t := scanPorts (p :: rest) k s
    (∃ b, s.answerTo (.query p) = .ok b ∧ byteAt b 0 = visionType ∧
      t = (u (.ok b)).deliver (.ok (.port (some p)))) ∨
    (∃ b, s.answerTo (.query p) = .ok b ∧ byteAt b 0 ≠ visionType ∧ t = scanPorts rest (k + 1) (u (.ok b))) ∨
    (∃ e, s.answerTo (.query p) = .fail e ∧ t = (u (.fail e)).deliver (.transportFail e)) ∨
    (s.answerTo (.query p) = .never ∧ t = u .never) := by
  intro u t
  rcases transact_cases s (.scan k) (.query p) fun b v =>
      if byteAt b 0 = visionType then v.deliver (.ok (.port (some p))) else scanPorts rest (k + 1) v with
    ⟨b, h, e⟩ | ⟨x, h, e⟩ | ⟨h, e⟩
  · by_cases hb : byteAt b 0 = visionType
    · exact .inl ⟨b, h, hb, e.trans (if_pos hb)⟩
    · exact .inr (.inl ⟨b, h, hb, e.trans (if_neg hb)⟩)
  · exact .inr (.inr (.inl ⟨x, h, e⟩))
  · exact .inr (.inr (.inr ⟨h, e⟩))

/-- The transport calls each operation can make, in a state `s`. -/
inductive CallOf (s : State) : Instr → Call → Prop where
  | objectsWrite (p : Port) (id : Word16) (m : Nat) (f : List Byte) :
    packObjectRequest id = some f → CallOf s (.getObjects p id m) (.write p regObjId f)
  | objectsRead (p : Port) (id : Word16) (m : Nat) :
    m ≠ 0 → CallOf s (.getObjects p id m) (.read p regObjData (recLen * min m maxObj))
  | setSignature (p : Port) (sig : HostSignature) :
    CallOf s (.setSignature p sig) (.write p regSig (encodeSignature (withId sig (narrowId sig.id))))
  | signatureSelect (p : Port) (id : Int) :
    CallOf s (.getSignature p id) (.write p regSig (encodeSignatureSelect (narrowId id)))
  | signatureRead (p : Port) (id : Int) : CallOf s (.getSignature p id) (.read p regSig sigPayloadLen)
  | getBrightness (p : Port) : CallOf s (.getBrightness p) (.read p regBright 1)
  | setBrightness (p : Port) (v : Byte) : CallOf s (.setBrightness p v) (.write p regBright (encodeByte v))
  | getWhiteBalanceMode (p : Port) : CallOf s (.getWhiteBalanceMode p) (.read p regWbMode 1)
  | setWhiteBalanceMode (p : Port) (m : WhiteBalanceMode) :
    CallOf s (.setWhiteBalanceMode p m) (.write p regWbMode (encodeWbMode s.wbCode m))
  | setWhiteBalance (p : Port) (c : RgbColor) :
    CallOf s (.setWhiteBalance p c) (.write p regWbMode (encodeWbSet s.wbCode c))
  | getWhiteBalance (p : Port) : CallOf s (.getWhiteBalance p) (.read p regWbRed 3)
  | getLedMode (p : Port) : CallOf s (.getLedMode p) (.read p regLedMode 1)
  | setLedMode (p : Port) (m : LedMode) : CallOf s (.setLedMode p m) (.write p regLedMode (encodeLedMode s.ledCode m))
  | setLedColor (p : Port) (c : RgbColor) :
    CallOf s (.setLedColor p c) (.write p regLedBright (encodeLedSet s.ledCode c))
  | getLedColor (p : Port) : CallOf s (.getLedColor p) (.read p regLedBright 4)
  | query (p : Port) : CallOf s .findFirstSensor (.query p)

variable {s t : State} {i : Instr} {P : State → Prop}

/-- A property kept by the answered call, by delivering, and by what follows an `ok`, is kept by `transact`. -/
theorem transact_keeps {k : Phase} {c : Call} {next : List Byte → State → State}
    (call : P ((s.enter k).afterCall c (s.answerTo c))) (deliver : ∀ u r, P u → P (u.deliver r))
    (go : ∀ b u, P u → P (next b u)) : P (s.transact k c next) := by
  rcases transact_cases s k c next with ⟨b, q, e⟩ | ⟨x, q, e⟩ | ⟨q, e⟩ <;> rw [e] <;> rw [q] at call
  · exact go _ _ call
  · exact deliver _ _ call
  · exact call

/-- A property of a state that holds before an operation, that a codec function's response keeps, and that each of the
sequencer's operations keeps, for the calls this operation can make, holds after it. -/
theorem exec_keeps (start : P s) (enter : ∀ u k, P u → P (u.enter k))
    (call : ∀ u k c, CallOf s i c → P u → P ((u.enter k).afterCall c (u.answerTo c)))
    (deliver : ∀ u r, P u → P (u.deliver r)) (respond : ∀ r, P (s.respond r))
    (fill : ∀ u rs, P u → P (u.fillArray rs)) (list : ∀ r rs, P ((s.fillArray rs).respond r))
    (h : exec i s = .next t) : P t := by
  cases i <;>
    simp only [exec, execPack32le, execUnpack32le, execPackObjectRequest, execDecodeObjectList, execEncodeSignature,
      execDecodeSignature, execEncodeSignatureSelect, execDecodeSignaturePayload, execEncodeByte, execDecodeByte,
      execEncodeWbSet, execDecodeWbRgb, execEncodeLedSet, execDecodeLedGet, execEncodeWbMode, execDecodeWbMode,
      execEncodeLedMode, execDecodeLedMode, execGetObjects, execSetSignature, execGetSignature, execGetBrightness,
      execSetBrightness, execGetWhiteBalanceMode, execSetWhiteBalanceMode, execSetWhiteBalance, execGetWhiteBalance,
      execGetLedMode, execSetLedMode, execSetLedColor, execGetLedColor, execFindFirstSensor] at h <;>
    (repeat' split at h) <;> simp at h <;> subst h
  case findFirstSensor =>
    suffices ∀ ps k u, P u → P (scanPorts ps k u) from this _ _ _ start
    intro ps
    induction ps with
    | nil => exact fun k u h => deliver _ _ (enter _ _ h)
    | cons p ps ih =>
      intro k u h
      refine transact_keeps (call u _ _ (.query p) h) deliver fun b u hu => ?_
      split
      · exact deliver _ _ hu
      · exact ih _ _ hu
  case h_2.isFalse p id m _ f hq hm =>
    exact transact_keeps (call _ _ _ (.objectsWrite p id m f hq) (enter _ _ start)) deliver fun _ u hu =>
      transact_keeps (call _ _ _ (.objectsRead p id m hm) hu) deliver fun _ u hu => deliver _ _ (fill _ _ hu)
  case getSignature.isTrue p id _ =>
    exact transact_keeps (call _ _ _ (.signatureSelect p id) (enter _ _ start)) deliver fun _ u hu =>
      transact_keeps (call _ _ _ (.signatureRead p id) hu) deliver fun _ u hu => deliver _ _ hu
  all_goals first
    | exact respond _
    | exact list _ _
    | exact deliver _ _ (enter _ _ start)
    | exact transact_keeps (call _ _ _ (by constructor) (enter _ _ start)) deliver fun _ u hu => deliver _ _ hu

end Sys2Proof.Machine
end

