-- ==== Sys2Proof/Laws/Image.lean ====
section
/-! SUPPORT. Each operand field of a request image read back from its bytes, whatever follows it. -/

namespace Sys2Proof

open Sys2Proof.Machine

theorem takeNat_natBytesUpTo (fuel : Nat) :
    ∀ (n : Nat) (rest : List Byte), n < fuel → takeNat (natBytesUpTo fuel n ++ rest) = .ok (n, rest) := by
  induction fuel with
  | zero => intro n _ h; omega
  | succ fuel ih =>
    intro n rest h
    unfold natBytesUpTo
    split
    · rw [List.cons_append, takeNat, if_pos (by rw [BitVec.toNat_ofNat]; omega)]
      simp only [BitVec.toNat_ofNat, List.nil_append, Except.ok.injEq, Prod.mk.injEq, and_true]
      omega
    · simp only [List.cons_append, takeNat, BitVec.toNat_ofNat, ih (n / 128) rest (by omega)]
      rw [if_neg (by omega)]
      simp
      omega

@[simp] theorem takeNat_natBytes (n : Nat) (rest : List Byte) : takeNat (natBytes n ++ rest) = .ok (n, rest) :=
  takeNat_natBytesUpTo _ _ _ (by omega)

theorem intOfNat_natOfInt (z : Int) : intOfNat (natOfInt z) = z := by
  cases z <;> (simp [natOfInt, intOfNat]; try omega)

@[simp] theorem takeInt_intBytes (z : Int) (rest : List Byte) : takeInt (intBytes z ++ rest) = .ok (z, rest) := by
  simp [takeInt, intBytes, bind, Except.bind, pure, Except.pure, intOfNat_natOfInt]

@[simp] theorem takePort_portBytes (p : Port) (rest : List Byte) :
    takePort (portBytes p ++ rest) = .ok (p, rest) := by
  simp [takePort, portBytes, bind, Except.bind, pure, Except.pure]

@[simp] theorem takeWord16_word16Bytes (v : Word16) (rest : List Byte) :
    takeWord16 (word16Bytes v ++ rest) = .ok (v, rest) := by
  have h : (v.extractLsb' 8 8 ++ v.extractLsb' 0 8 : BitVec (8 + 8)) = v := by
    apply BitVec.eq_of_toNat_eq
    rw [join2_toNat]
    have := v.isLt
    simp [BitVec.extractLsb'_toNat, Nat.shiftRight_eq_div_pow]
    omega
  simp only [word16Bytes, List.cons_append, List.nil_append, takeWord16]
  rw [h]

@[simp] theorem takeWord32_word32Bytes (v : Word32) (rest : List Byte) :
    takeWord32 (word32Bytes v ++ rest) = .ok (v, rest) := by
  have h : (v.extractLsb' 24 8 ++ v.extractLsb' 16 8 ++ v.extractLsb' 8 8 ++ v.extractLsb' 0 8
      : BitVec (8 + 8 + 8 + 8)) = v := by
    apply BitVec.eq_of_toNat_eq
    rw [join4_toNat]
    have := v.isLt
    simp [BitVec.extractLsb'_toNat, Nat.shiftRight_eq_div_pow]
    omega
  simp only [word32Bytes, List.cons_append, List.nil_append, takeWord32]
  rw [h]

theorem takeBytes_append {n : Nat} {b : List Byte} (rest : List Byte) (h : b.length = n) :
    takeBytes n (b ++ rest) = .ok (b, rest) := by
  subst h
  simp [takeBytes]

theorem takeBytes_length {n : Nat} {bs b rest : List Byte} (h : takeBytes n bs = .ok (b, rest)) : b.length = n := by
  unfold takeBytes at h
  split at h <;> simp at h
  obtain ⟨rfl, _⟩ := h
  simp
  omega

@[simp] theorem takeColor_colorBytes (c : RgbColor) (rest : List Byte) :
    takeColor (colorBytes c ++ rest) = .ok (c, rest) := rfl

@[simp] theorem takeWbMode_wbModeByte (m : WhiteBalanceMode) (rest : List Byte) :
    takeWbMode (wbModeByte m :: rest) = .ok (m, rest) := by
  cases m <;> rfl

@[simp] theorem takeLedMode_ledModeByte (m : LedMode) (rest : List Byte) :
    takeLedMode (ledModeByte m :: rest) = .ok (m, rest) := by
  cases m <;> rfl

@[simp] theorem takeSignature_signatureBytes {ι : Type} (s : SignatureOf ι) (rest : List Byte) :
    takeSignature s.id (signatureBytes s ++ rest) = .ok (s, rest) := by
  simp [takeSignature, signatureBytes, List.append_assoc, bind, Except.bind, pure, Except.pure]

/-- The three descriptor bytes give the descriptor back. -/
theorem takeDesc_descBytes (d : BitVec 18) (rest : List Byte) : takeDesc (descBytes d ++ rest) = .ok (d, rest) := by
  have hd := d.isLt
  have hk : ((d.extractLsb' 16 2).setWidth 8).toNat = d.toNat / 65536 := by
    simp only [BitVec.toNat_setWidth, BitVec.extractLsb'_toNat, Nat.shiftRight_eq_div_pow]
    omega
  simp only [descBytes, List.cons_append, List.nil_append, takeDesc, hk]
  rw [if_pos (by omega)]
  simp only [Except.ok.injEq, Prod.mk.injEq, and_true]
  apply BitVec.eq_of_toNat_eq
  rw [BitVec.toNat_append, BitVec.toNat_append, ← Nat.shiftLeft_add_eq_or_of_lt (BitVec.isLt _),
    ← Nat.shiftLeft_add_eq_or_of_lt (BitVec.isLt _)]
  simp only [BitVec.extractLsb'_toNat, Nat.shiftRight_eq_div_pow, hk, Nat.shiftLeft_eq]
  omega

/-- An operation's descriptor selects the operation. -/
theorem opOfDesc_desc (op : Op) : opOfDesc op.desc = .ok op := by
  cases op <;> decide

end Sys2Proof
end

