-- ==== Sys2Proof/Laws/PerInstr.lean ====
section
/-! SUPPORT. Statements made of every operation as syntax, one lemma per constructor. -/

namespace Sys2Proof.Laws.DescriptorNamesOperation

/-- An operation's image begins with a descriptor of three bytes that selects the operation and no other, and its
operands stand right behind it. -/
def Statement (i : Instr) : Prop :=
  takeDesc (encode i) = .ok (i.op.desc, i.operandBytes) ∧ opOfDesc i.op.desc = .ok i.op

theorem pack32le (v : Word32) : Statement (.pack32le v) := ⟨takeDesc_descBytes _ _, opOfDesc_desc _⟩

theorem unpack32le (b : List Byte) : Statement (.unpack32le b) := ⟨takeDesc_descBytes _ _, opOfDesc_desc _⟩

theorem packObjectRequest (id : Word16) : Statement (.packObjectRequest id) := ⟨takeDesc_descBytes _ _, opOfDesc_desc _⟩

theorem decodeObjectList (b : List Byte) (m : Nat) (id : Word16) : Statement (.decodeObjectList b m id) := ⟨takeDesc_descBytes _ _, opOfDesc_desc _⟩

theorem encodeSignature (s : ClassifierSignature) : Statement (.encodeSignature s) := ⟨takeDesc_descBytes _ _, opOfDesc_desc _⟩

theorem decodeSignature (b : List Byte) : Statement (.decodeSignature b) := ⟨takeDesc_descBytes _ _, opOfDesc_desc _⟩

theorem encodeSignatureSelect (id : Byte) : Statement (.encodeSignatureSelect id) := ⟨takeDesc_descBytes _ _, opOfDesc_desc _⟩

theorem decodeSignaturePayload (b : List Byte) (id : Byte) : Statement (.decodeSignaturePayload b id) := ⟨takeDesc_descBytes _ _, opOfDesc_desc _⟩

theorem encodeByte (v : Byte) : Statement (.encodeByte v) := ⟨takeDesc_descBytes _ _, opOfDesc_desc _⟩

theorem decodeByte (b : List Byte) : Statement (.decodeByte b) := ⟨takeDesc_descBytes _ _, opOfDesc_desc _⟩

theorem encodeWbSet (c : RgbColor) : Statement (.encodeWbSet c) := ⟨takeDesc_descBytes _ _, opOfDesc_desc _⟩

theorem decodeWbRgb (b : List Byte) : Statement (.decodeWbRgb b) := ⟨takeDesc_descBytes _ _, opOfDesc_desc _⟩

theorem encodeLedSet (c : RgbColor) : Statement (.encodeLedSet c) := ⟨takeDesc_descBytes _ _, opOfDesc_desc _⟩

theorem decodeLedGet (b : List Byte) : Statement (.decodeLedGet b) := ⟨takeDesc_descBytes _ _, opOfDesc_desc _⟩

theorem encodeWbMode (m : WhiteBalanceMode) : Statement (.encodeWbMode m) := ⟨takeDesc_descBytes _ _, opOfDesc_desc _⟩

theorem decodeWbMode (b : List Byte) : Statement (.decodeWbMode b) := ⟨takeDesc_descBytes _ _, opOfDesc_desc _⟩

theorem encodeLedMode (m : LedMode) : Statement (.encodeLedMode m) := ⟨takeDesc_descBytes _ _, opOfDesc_desc _⟩

theorem decodeLedMode (b : List Byte) : Statement (.decodeLedMode b) := ⟨takeDesc_descBytes _ _, opOfDesc_desc _⟩

theorem getObjects (p : Port) (id : Word16) (m : Nat) : Statement (.getObjects p id m) := ⟨takeDesc_descBytes _ _, opOfDesc_desc _⟩

theorem setSignature (p : Port) (s : HostSignature) : Statement (.setSignature p s) := ⟨takeDesc_descBytes _ _, opOfDesc_desc _⟩

theorem getSignature (p : Port) (id : Int) : Statement (.getSignature p id) := ⟨takeDesc_descBytes _ _, opOfDesc_desc _⟩

theorem getBrightness (p : Port) : Statement (.getBrightness p) := ⟨takeDesc_descBytes _ _, opOfDesc_desc _⟩

theorem setBrightness (p : Port) (v : Byte) : Statement (.setBrightness p v) := ⟨takeDesc_descBytes _ _, opOfDesc_desc _⟩

theorem getWhiteBalanceMode (p : Port) : Statement (.getWhiteBalanceMode p) := ⟨takeDesc_descBytes _ _, opOfDesc_desc _⟩

theorem setWhiteBalanceMode (p : Port) (m : WhiteBalanceMode) : Statement (.setWhiteBalanceMode p m) := ⟨takeDesc_descBytes _ _, opOfDesc_desc _⟩

theorem setWhiteBalance (p : Port) (c : RgbColor) : Statement (.setWhiteBalance p c) := ⟨takeDesc_descBytes _ _, opOfDesc_desc _⟩

theorem getWhiteBalance (p : Port) : Statement (.getWhiteBalance p) := ⟨takeDesc_descBytes _ _, opOfDesc_desc _⟩

theorem getLedMode (p : Port) : Statement (.getLedMode p) := ⟨takeDesc_descBytes _ _, opOfDesc_desc _⟩

theorem setLedMode (p : Port) (m : LedMode) : Statement (.setLedMode p m) := ⟨takeDesc_descBytes _ _, opOfDesc_desc _⟩

theorem setLedColor (p : Port) (c : RgbColor) : Statement (.setLedColor p c) := ⟨takeDesc_descBytes _ _, opOfDesc_desc _⟩

theorem getLedColor (p : Port) : Statement (.getLedColor p) := ⟨takeDesc_descBytes _ _, opOfDesc_desc _⟩

theorem findFirstSensor : Statement .findFirstSensor := ⟨takeDesc_descBytes _ _, opOfDesc_desc _⟩

end Sys2Proof.Laws.DescriptorNamesOperation
end

