-- ==== Sys2Proof/Tests/Slice0.lean ====
section
/-! SUPPORT. The model's own tests. Expected values are those of spec/95_test_vectors.md (named by vector) or of the
example of the operation's rule; the request images are written out from R91, R92 and log 4. -/

namespace Sys2Proof.Tests

open Sys2Proof.Machine

/-! ## Helpers -/

/-- Four ports, all parameters at their defaults, and the answers of a test double. -/
def base (script : List Answer) : State :=
  { State.reset with ports := [⟨1⟩, ⟨2⟩, ⟨3⟩, ⟨4⟩], script := script }

/-- A port. -/
def p : Port := ⟨3⟩

/-- A transport error. -/
def e1 : TransportError := ⟨7⟩

/-- The responses and events of an operation that has a next state. -/
def did (o : Host.Outcome State Fault Refusal) : Option (List Response × List Event) :=
  match o with
  | .next s => some (s.responses, s.trace)
  | .fault _ => none
  | .refused _ => none

/-- What `decode` gives, as an option. -/
def decoded (image : List Byte) : Option Instr :=
  match decode image with
  | .ok i => some i
  | .error _ => none

/-- Why `decode` refuses. -/
def refusedFor (image : List Byte) : Option DecodeError :=
  match decode image with
  | .ok _ => none
  | .error e => some e

/-- S1's object-list buffer. -/
def s1 : List Byte :=
  [0x0A, 0x14, 0x05, 0x08, 0x00, 0x00, 0x1E, 0x01, 0x02, 0x03, 0x00, 0x01,
   0xFF, 0xAA, 0xBB, 0xCC, 0xDD, 0xEE, 0x01, 0x02, 0x03, 0x04, 0x05, 0x06]

/-- S1's two objects. -/
def s1Objects : List ObjectReading :=
  [⟨1, 20, 20, 10, 8, 0⟩, ⟨1, 60, 1, 4, 3, 256⟩]

/-- O3's object-list buffer. -/
def o3 : List Byte :=
  [0x80, 0x80, 0x80, 0x80, 0x67, 0x01, 0x00, 0xFF, 0x00, 0x00, 0x00, 0x80,
   0x01, 0x01, 0x01, 0x01, 0xFF, 0x7F, 0x02, 0x02, 0x02, 0x02, 0x68, 0x01]

/-- G1's record, under an id of any type. -/
def g1 {ι : Type} (id : ι) : SignatureOf ι :=
  ⟨id, 0x40200000, -1234, 5678, 2222, -2147483648, 2147483647, 0, 16744512, -1⟩

/-- G1's 37-byte frame. -/
def g1Frame : List Byte :=
  [0x03, 0x00, 0x00, 0x20, 0x40, 0x2E, 0xFB, 0xFF, 0xFF, 0x2E, 0x16, 0x00, 0x00, 0xAE, 0x08, 0x00, 0x00,
   0x00, 0x00, 0x00, 0x80, 0xFF, 0xFF, 0xFF, 0x7F, 0x00, 0x00, 0x00, 0x00, 0x40, 0x80, 0xFF, 0x00,
   0xFF, 0xFF, 0xFF, 0xFF]

/-- G2's record. -/
def g2 : ClassifierSignature := ⟨1, 0x40400000, 100, 200, 150, -50, 50, 0, 1193046, 0⟩

/-- G2's 36-byte payload. -/
def g2Payload : List Byte :=
  [0x00, 0x00, 0x40, 0x40, 0x64, 0x00, 0x00, 0x00, 0xC8, 0x00, 0x00, 0x00, 0x96, 0x00, 0x00, 0x00,
   0xCE, 0xFF, 0xFF, 0xFF, 0x32, 0x00, 0x00, 0x00, 0x00, 0x00, 0x00, 0x00, 0x56, 0x34, 0x12, 0x00,
   0x00, 0x00, 0x00, 0x00]

/-- S2's colour. -/
def orange : RgbColor := { red := 255, green := 128, blue := 0, brightness := 150 }

/-- The white-balance vectors' colour. -/
def wbColor : RgbColor := { red := 200, green := 100, blue := 50, brightness := 99 }

/-! ## WellFormed: one ill-formed term for each check, refused -/

theorem test_illFormed_unpack32le : (Instr.unpack32le [1, 2, 3]).wellFormed = false := by decide
theorem test_illFormed_decodeSignature : (Instr.decodeSignature (List.replicate 36 0)).wellFormed = false := by decide
theorem test_illFormed_decodeSignaturePayload :
    (Instr.decodeSignaturePayload (List.replicate 35 0) 1).wellFormed = false := by decide
theorem test_illFormed_decodeByte : (Instr.decodeByte []).wellFormed = false := by decide
theorem test_illFormed_decodeWbRgb : (Instr.decodeWbRgb [1, 2, 3, 4]).wellFormed = false := by decide
theorem test_illFormed_decodeLedGet : (Instr.decodeLedGet [1, 2, 3]).wellFormed = false := by decide
theorem test_illFormed_decodeWbMode : (Instr.decodeWbMode [1, 2]).wellFormed = false := by decide
theorem test_illFormed_decodeLedMode : (Instr.decodeLedMode []).wellFormed = false := by decide

/-! ## Decode: an image written out for each constructor; the first three bytes are DESC, len then reg then kind -/

theorem test_decode_getObjects :
    decoded [0x02, 0x24, 0x01, 0x03, 0x2C, 0x01, 0x09] = some (.getObjects p 300 9) := by decide
theorem test_decode_setSignature :
    decoded ([0x25, 0xAF, 0x01, 0x03, 0x06] ++ g1Frame.drop 1) = some (.setSignature p (g1 3)) := by decide
theorem test_decode_getSignature_257 :
    decoded [0x01, 0xAF, 0x01, 0x03, 0x82, 0x04] = some (.getSignature p 257) := by decide
theorem test_decode_getSignature_negative :
    decoded [0x01, 0xAF, 0x01, 0x03, 0x01] = some (.getSignature p (-1)) := by decide
theorem test_decode_getBrightness : decoded [0x01, 0xE2, 0x00, 0x03] = some (.getBrightness p) := by decide
theorem test_decode_setBrightness : decoded [0x01, 0xE2, 0x01, 0x03, 0x4B] = some (.setBrightness p 75) := by decide
theorem test_decode_getWhiteBalanceMode :
    decoded [0x01, 0xE3, 0x00, 0x03] = some (.getWhiteBalanceMode p) := by decide
theorem test_decode_setWhiteBalanceMode :
    decoded [0x01, 0xE3, 0x01, 0x03, 0x01] = some (.setWhiteBalanceMode p .start) := by decide
theorem test_decode_setWhiteBalance :
    decoded [0x04, 0xE3, 0x01, 0x03, 0xC8, 0x64, 0x32, 0x63] = some (.setWhiteBalance p wbColor) := by decide
theorem test_decode_getWhiteBalance : decoded [0x03, 0xE4, 0x00, 0x03] = some (.getWhiteBalance p) := by decide
theorem test_decode_getLedMode : decoded [0x01, 0xEB, 0x00, 0x03] = some (.getLedMode p) := by decide
theorem test_decode_setLedMode : decoded [0x01, 0xEB, 0x01, 0x03, 0x01] = some (.setLedMode p .manual) := by decide
theorem test_decode_setLedColor :
    decoded [0x05, 0xE7, 0x01, 0x03, 0xFF, 0x80, 0x00, 0x96] = some (.setLedColor p orange) := by decide
theorem test_decode_getLedColor : decoded [0x04, 0xE7, 0x00, 0x03] = some (.getLedColor p) := by decide
theorem test_decode_findFirstSensor : decoded [0x00, 0x00, 0x02] = some .findFirstSensor := by decide
/-- The mask 0x30000: a query's register and length bytes play no part (R92). -/
theorem test_decode_findFirstSensor_mask : decoded [0x5A, 0xA5, 0x02] = some .findFirstSensor := by decide
theorem test_decode_packObjectRequest : decoded [0x00, 0x00, 0x00, 0x0A, 0x80] = some (.packObjectRequest 0x800A) := by decide
theorem test_decode_pack32le : decoded [0x00, 0x01, 0x00, 0x78, 0x56, 0x34, 0x12] = some (.pack32le 0x12345678) := by decide
theorem test_decode_unpack32le : decoded [0x00, 0x02, 0x00, 1, 2, 3, 4] = some (.unpack32le [1, 2, 3, 4]) := by decide
theorem test_decode_decodeObjectList :
    decoded [0x00, 0x03, 0x00, 0x06, 1, 2, 3, 4, 5, 6, 0x01, 0x07, 0x00] =
      some (.decodeObjectList [1, 2, 3, 4, 5, 6] 1 7) := by decide
theorem test_decode_encodeSignature :
    decoded ([0x00, 0x04, 0x00] ++ g1Frame) = some (.encodeSignature (g1 3)) := by decide
theorem test_decode_decodeSignature :
    decoded ([0x00, 0x05, 0x00] ++ g1Frame) = some (.decodeSignature g1Frame) := by decide
theorem test_decode_encodeSignatureSelect : decoded [0x00, 0x06, 0x00, 5] = some (.encodeSignatureSelect 5) := by decide
theorem test_decode_decodeSignaturePayload :
    decoded ([0x00, 0x07, 0x00] ++ g2Payload ++ [1]) = some (.decodeSignaturePayload g2Payload 1) := by decide
theorem test_decode_encodeByte : decoded [0x00, 0x08, 0x00, 50] = some (.encodeByte 50) := by decide
theorem test_decode_decodeByte : decoded [0x00, 0x09, 0x00, 50] = some (.decodeByte [50]) := by decide
theorem test_decode_encodeWbSet : decoded [0x00, 0x0A, 0x00, 200, 100, 50, 99] = some (.encodeWbSet wbColor) := by decide
theorem test_decode_decodeWbRgb : decoded [0x00, 0x0B, 0x00, 1, 2, 3] = some (.decodeWbRgb [1, 2, 3]) := by decide
theorem test_decode_encodeLedSet : decoded [0x00, 0x0C, 0x00, 255, 128, 0, 150] = some (.encodeLedSet orange) := by decide
theorem test_decode_decodeLedGet : decoded [0x00, 0x0D, 0x00, 1, 2, 3, 4] = some (.decodeLedGet [1, 2, 3, 4]) := by decide
theorem test_decode_encodeWbMode : decoded [0x00, 0x0E, 0x00, 2] = some (.encodeWbMode .manual) := by decide
theorem test_decode_decodeWbMode : decoded [0x00, 0x0F, 0x00, 7] = some (.decodeWbMode [7]) := by decide
theorem test_decode_encodeLedMode : decoded [0x00, 0x10, 0x00, 0] = some (.encodeLedMode .auto) := by decide
theorem test_decode_decodeLedMode : decoded [0x00, 0x11, 0x00, 2] = some (.decodeLedMode [2]) := by decide

theorem test_decode_refusals :
    refusedFor [0x01, 0xE2] = some .truncated ∧ refusedFor [0x01, 0xE2, 0x04, 0x03] = some .notADescriptor ∧
    refusedFor [0x18, 0x26, 0x00] = some .noSuchOperation ∧ refusedFor [0x00, 0x00, 0x03] = some .noSuchOperation ∧
    refusedFor [0x01, 0xE3, 0x01, 0x03, 0x03] = some .noSuchMode ∧
    refusedFor [0x01, 0xE2, 0x00, 0x03, 0x00, 0x01] = some .trailingBytes := by decide

theorem test_tableWords :
    decodeTableWord 24 0x1AF25 = some (.setSignature ⟨0⟩ ⟨0, 0, 0, 0, 0, 0, 0, 0, 0, 0⟩) ∧
    decodeTableWord 18 0x0E403 = some (.getWhiteBalance ⟨0⟩) ∧
    decodeTableWord 18 0x20000 = some .findFirstSensor := by decide

/-- `step` runs the presented word as the first instruction after reset, whatever the ports and the free draws are. -/
theorem test_step_after_reset :
    ∃ t, step (State.reset.withFetchWord 18 0x0E201) = .next t ∧
      t = runGet ⟨0⟩ 0xE2 1 (fun b => .byte (byteAt b 0)) State.reset := ⟨_, rfl, rfl⟩

/-! ## One operation at a time, by the vectors of Part 2 -/

theorem test_pack32le : did (exec (.pack32le (-1234)) (base [])) = some ([.ok (.frame [0x2E, 0xFB, 0xFF, 0xFF])], []) := by
  decide
theorem test_unpack32le : did (exec (.unpack32le [0xDE, 0xAD, 0xBE, 0xEF]) (base [])) = some ([.ok (.i32 (-272716322))], []) := by
  decide
theorem test_unpack32le_low : (unpack32le [0x80, 0, 0, 0]).toInt = 128 ∧ (unpack32le [0, 0, 0, 0x80]).toInt = -2147483648 := by
  decide
theorem test_packObjectRequest : did (exec (.packObjectRequest 4660) (base [])) = some ([.ok (.frame [0x34, 0x12])], []) := by
  decide
theorem test_packObjectRequest_rejected : did (exec (.packObjectRequest (-32768)) (base [])) = some ([.rejected], []) := by
  decide
theorem test_decodeObjectList_S1 : did (exec (.decodeObjectList s1 4 1) (base [])) = some ([.ok (.objects s1Objects)], []) := by
  decide
theorem test_decodeObjectList_O3 : decodeObjectList o3 4 3 =
    [⟨3, 256, 128, 256, 128, 359⟩, ⟨3, 0, 255, 0, 0, -32768⟩, ⟨3, 2, 1, 2, 1, 32767⟩, ⟨3, 4, 2, 4, 2, 360⟩] := by decide
theorem test_encodeSignature_G1 : encodeSignature (g1 3) = g1Frame := by decide
theorem test_decodeSignature_G1 : decodeSignature g1Frame = g1 3 := by decide
theorem test_encodeSignatureSelect : did (exec (.encodeSignatureSelect 5) (base [])) = some ([.ok (.frame [5])], []) := by
  decide
theorem test_decodeSignaturePayload_G2 :
    decodeSignaturePayload g2Payload 1 = g2 ∧ decodeSignaturePayload g2Payload 6 = { g2 with id := 6 } := by decide
theorem test_encodeByte : did (exec (.encodeByte 100) (base [])) = some ([.ok (.frame [0x64])], []) := by decide
theorem test_decodeByte : did (exec (.decodeByte [0xFF]) (base [])) = some ([.ok (.byte 255)], []) := by decide
theorem test_encodeWbSet : did (exec (.encodeWbSet wbColor) (base [])) = some ([.ok (.frame [0x02, 0xC8, 0x64, 0x32])], []) := by
  decide
theorem test_encodeWbSet_otherCodes : encodeWbSet ⟨0x10, 0x20, 0x30⟩ wbColor = [0x30, 0xC8, 0x64, 0x32] := by decide
theorem test_decodeWbRgb : did (exec (.decodeWbRgb [0xC8, 0x64, 0x32]) (base [])) =
    some ([.ok (.color { red := 200, green := 100, blue := 50, brightness := 0 })], []) := by decide
theorem test_encodeLedSet : did (exec (.encodeLedSet orange) (base [])) =
    some ([.ok (.frame [0x64, 0xFF, 0x80, 0x00, 0x01])], []) := by decide
theorem test_encodeLedSet_edges :
    encodeLedSet defaultLedCode ⟨1, 2, 3, 99⟩ = [0x63, 1, 2, 3, 1] ∧
    encodeLedSet defaultLedCode ⟨1, 2, 3, 101⟩ = [0x64, 1, 2, 3, 1] := by decide
theorem test_decodeLedGet : did (exec (.decodeLedGet [0xC8, 0x01, 0x02, 0x03]) (base [])) =
    some ([.ok (.color { red := 1, green := 2, blue := 3, brightness := 200 })], []) := by decide
theorem test_encodeWbMode : did (exec (.encodeWbMode .start) (base [])) = some ([.ok (.frame [0x01])], []) := by decide
theorem test_decodeWbMode : did (exec (.decodeWbMode [0x02]) (base [])) = some ([.ok (.wbMode 2 (some .manual))], []) := by
  decide
theorem test_decodeWbMode_none : did (exec (.decodeWbMode [0x07]) (base [])) = some ([.ok (.wbMode 7 none)], []) := by decide
theorem test_encodeLedMode : did (exec (.encodeLedMode .manual) (base [])) = some ([.ok (.frame [0x01])], []) := by decide
theorem test_decodeLedMode : did (exec (.decodeLedMode [0x00]) (base [])) = some ([.ok (.ledMode 0 (some .auto))], []) := by
  decide
theorem test_decodeLedMode_none : did (exec (.decodeLedMode [0x02]) (base [])) = some ([.ok (.ledMode 2 none)], []) := by decide

theorem test_getObjects_P1 : did (exec (.getObjects p 1 4) (base [.ok [], .ok s1])) =
    some ([.ok (.objects s1Objects)], [.write p 0x24 [0x01, 0x00], .read p 0x26 24 (some s1)]) := by decide
theorem test_getObjects_clamped : did (exec (.getObjects p 1 9) (base [.ok [], .ok o3])) =
    some ([.ok (.objects (decodeObjectList o3 4 1))], [.write p 0x24 [0x01, 0x00], .read p 0x26 24 (some o3)]) := by decide
theorem test_setSignature_G1 : did (exec (.setSignature p (g1 3)) (base [.ok []])) =
    some ([.ok (.flag true)], [.write p 0xAF g1Frame]) := by decide
theorem test_setSignature_8 : did (exec (.setSignature p (g1 8)) (base [])) = some ([.rejected], []) := by decide
theorem test_getSignature_G2 : did (exec (.getSignature p 1) (base [.ok [], .ok g2Payload])) =
    some ([.ok (.signature g2)], [.write p 0xAF [0x01], .read p 0xAF 36 (some g2Payload)]) := by decide
/-- Checked before it is narrowed: 257 must not become id 1 (R203). -/
theorem test_getSignature_257 : did (exec (.getSignature p 257) (base [])) = some ([.rejected], []) := by decide
theorem test_getBrightness : did (exec (.getBrightness p) (base [.ok [0xC8]])) =
    some ([.ok (.byte 200)], [.read p 0xE2 1 (some [0xC8])]) := by decide
theorem test_setBrightness : did (exec (.setBrightness p 100) (base [.ok []])) =
    some ([.ok .nothing], [.write p 0xE2 [0x64]]) := by decide
theorem test_getWhiteBalanceMode : did (exec (.getWhiteBalanceMode p) (base [.ok [0x02]])) =
    some ([.ok (.wbMode 2 (some .manual))], [.read p 0xE3 1 (some [0x02])]) := by decide
theorem test_setWhiteBalanceMode : did (exec (.setWhiteBalanceMode p .start) (base [.ok []])) =
    some ([.ok .nothing], [.write p 0xE3 [0x01]]) := by decide
theorem test_setWhiteBalance : did (exec (.setWhiteBalance p wbColor) (base [.ok []])) =
    some ([.ok .nothing], [.write p 0xE3 [0x02, 0xC8, 0x64, 0x32]]) := by decide
theorem test_getWhiteBalance : did (exec (.getWhiteBalance p) (base [.ok [0xC8, 0x64, 0x32]])) =
    some ([.ok (.color ⟨200, 100, 50, 0⟩)], [.read p 0xE4 3 (some [0xC8, 0x64, 0x32])]) := by decide
theorem test_getLedMode : did (exec (.getLedMode p) (base [.ok [0x09]])) =
    some ([.ok (.ledMode 9 none)], [.read p 0xEB 1 (some [0x09])]) := by decide
theorem test_setLedMode : did (exec (.setLedMode p .auto) (base [.ok []])) =
    some ([.ok .nothing], [.write p 0xEB [0x00]]) := by decide
theorem test_setLedColor_S2 : did (exec (.setLedColor p orange) (base [.ok []])) =
    some ([.ok .nothing], [.write p 0xE7 [0x64, 0xFF, 0x80, 0x00, 0x01]]) := by decide
theorem test_getLedColor : did (exec (.getLedColor p) (base [.ok [0x64, 0xFF, 0x80, 0x00]])) =
    some ([.ok (.color ⟨255, 128, 0, 100⟩)], [.read p 0xE7 4 (some [0x64, 0xFF, 0x80, 0x00])]) := by decide
theorem test_findFirstSensor_P5a : did (exec .findFirstSensor (base [.ok [0x00], .ok [0x0B]])) =
    some ([.ok (.port (some ⟨2⟩))], [.query ⟨1⟩ (some 0x00), .query ⟨2⟩ (some 0x0B)]) := by decide
theorem test_findFirstSensor_P5c : did (exec .findFirstSensor (base [.ok [0x00], .ok [0x02], .ok [0xFF], .ok [0x0C]])) =
    some ([.ok (.port none)],
      [.query ⟨1⟩ (some 0x00), .query ⟨2⟩ (some 0x02), .query ⟨3⟩ (some 0xFF), .query ⟨4⟩ (some 0x0C)]) := by decide

/-- P4's sixth operation, and R280's codes with the source's views of a response (D27). -/
theorem test_transportFail_P4 : did (exec (.getObjects p 2 3) (base [.fail e1])) =
    some ([.transportFail e1], [.write p 0x24 [0x02, 0x00]]) := by decide
theorem test_status_codes :
    (Response.ok .nothing).status.code = 0 ∧ Response.rejected.status.code = 1 ∧
    (Response.transportFail e1).status.code = 2 ∧ (Response.ok (.flag true)).successFlag = true ∧
    Response.rejected.successFlag = false ∧ (Response.ok (.objects s1Objects)).objectCount = some 2 ∧
    Response.rejected.objectCount = some 0 := by decide

/-- Two queries of one run into two arrays of the caller (R145, R321): S1's list stands whole in the first, the second's one
object in the other, whose next entry is as it was. -/
theorem test_two_arrays :
    (match Sys2Proof.core.run 2 { base [.ok [], .ok s1, .ok [], .ok [0x05, 0x07, 0x06, 0x09, 0x2C, 0x01]] with
      requests := [⟨[0x02, 0x24, 0x01, 0x02, 0x01, 0x00, 0x04], ⟨1⟩⟩, ⟨[0x02, 0x24, 0x01, 0x02, 0x05, 0x00, 0x01], ⟨2⟩⟩] } with
      | .next t =>
        State.arrayOf t ⟨1⟩ = { e0 := ⟨1, 20, 20, 10, 8, 0, 0⟩, e1 := ⟨1, 60, 1, 4, 3, 256, 0⟩, e2 := zeroObject, e3 := zeroObject } ∧
        State.arrayOf t ⟨2⟩ = { e0 := ⟨5, 10, 7, 12, 9, 300, 0⟩, e1 := zeroObject, e2 := zeroObject, e3 := zeroObject }
      | .fault _ => False
      | .refused _ => False) := by
  refine ⟨?_, ?_⟩ <;> decide

/-! ## Witnesses: for each statement with hypotheses, a state and operands that meet them all, clause by clause -/

/-- The register-array double switched on, holding one register of port 3. -/
def doubled : State := { base [] with double := true, memory := [(1000, 0x55)] }

/-- The next state of an outcome, if it has one. -/
def nextOf (o : Host.Outcome State Fault Refusal) : Option State :=
  match o with
  | .next s => some s
  | .fault _ => none
  | .refused _ => none

theorem witness_RequestImageRoundTrip :
    (Instr.decodeSignature g1Frame).wellFormed = true ∧ (Instr.getObjects p 1 0).wellFormed = true := by decide

theorem witness_DecodedRequestsAreWellFormed :
    decode ([0x00, 0x05, 0x00] ++ g1Frame) = .ok (.decodeSignature g1Frame) := by decide

theorem witness_DescriptorSelectsOneRow :
    (⟨.getLedColor, 0x0E704, 0x3FFFF⟩ : Row) ∈ rows ∧ (⟨.getLedColor, 0x0E704, 0x3FFFF⟩ : Row).selects 0x0E704 = true ∧
    (⟨.findFirstSensor, 0x20000, 0x30000⟩ : Row) ∈ rows ∧
    (⟨.findFirstSensor, 0x20000, 0x30000⟩ : Row).selects 0x2FFFF = true := by decide

theorem witness_FirstCallSelectsItsRow :
    ((nextOf (exec (.getSignature p 7) (base [.ok [], .ok g2Payload]))).map State.trace) =
      some ((base []).trace ++ Event.write p 0xAF [7] :: [.read p 0xAF 36 (some g2Payload)]) ∧
    ((nextOf (exec .findFirstSensor (base [.ok [0x0B]]))).map State.trace) =
      some ((base []).trace ++ [.query ⟨1⟩ (some 0x0B)]) := by decide

theorem witness_StepRunsTheDecodedRequest :
    ((base []).present [0x01, 0xE2, 0x00, 0x03]).ph = none ∧
    ((base []).present [0x01, 0xE2, 0x00, 0x03]).requests = ⟨[0x01, 0xE2, 0x00, 0x03], ⟨0⟩⟩ :: [] ∧
    decode [0x01, 0xE2, 0x00, 0x03] = .ok (.getBrightness p) ∧ (Instr.getBrightness p).wellFormed = true := by decide

theorem witness_OtherSteps :
    (base []).ph = none ∧ (base []).requests = [] ∧ ((base []).enter .t2).ph = some .t2 ∧
    ((base []).present [0xFF]).requests = ⟨[0xFF], ⟨0⟩⟩ :: [] ∧ decode [0xFF] = .error .truncated := by decide

theorem witness_TransportAnswersFitTheCall :
    (base [.ok g2Payload]).answerTo (.read p 0xAF 36) = .ok g2Payload ∧
    (base [.ok [0x0B]]).answerTo (.query p) = .ok [0x0B] ∧
    (base [.ok []]).answerTo (.write p 0xE2 [100]) = .ok [] ∧
    doubled.answerTo (.write p 0xE2 [100]) = .ok [] := by decide

theorem witness_ObjectRequestPackedOrRejected :
    (0 : Word16).toInt ≤ 0 ∧ (0x8000 : Word16).toInt ≤ 0 ∧ 0 < (1 : Word16).toInt ∧ 0 < (0x7FFF : Word16).toInt := by
  decide

theorem witness_ObjectListDecoded :
    6 * 4 ≤ s1.length ∧ 6 * 0 ≤ s1.length ∧ 1 < (decodeObjectList s1 4 1).length ∧
    (decodeObjectList s1 4 1).length < 4 ∧ (decodeObjectList o3 4 3).length = 4 := by decide

theorem witness_CallersArrayFilledInPlace :
    ((nextOf (exec (.getObjects p 1 4) (base [.ok [], .ok s1]))).map State.responses) =
      some ((base []).responses ++ [.ok (.objects s1Objects)]) ∧
    (1 : Fin 4).val < s1Objects.length ∧ s1Objects.length ≤ (2 : Fin 4).val ∧
    ((nextOf (exec (.getObjects p 1 4) (base [.ok [], .ok s1]))).map fun t =>
      ((t.arrayOf ⟨0⟩).e1.angle, t.arrayOf ⟨1⟩)) = some (256, zeroArray) ∧
    (⟨1⟩ : ArrayName) ≠ (base [.ok [], .ok s1]).target := by decide

theorem witness_SignatureFrameDecoded : g1Frame.length = 37 := by decide
theorem witness_SignatureCodecIsABijection : (List.replicate 37 (0xFF : Byte)).length = 37 := by decide
theorem witness_HelpersAreInverse : ([0, 0, 0, 0x80] : List Byte).length = 4 := by decide
theorem witness_SelectAndPayload : g2Payload.length = 36 := by decide

theorem witness_ModeBytesDecodedToTheirMember :
    WbCode.injective (base []).wbCode = true ∧ LedCode.injective (base []).ledCode = true := by decide

theorem witness_UndefinedOperandsRefused :
    (s1.take 23).length < 6 * 4 ∧ 0 < (1 : Word16).toInt ∧ 100 < (101 : Byte).toNat ∧ 100 < (255 : Byte).toNat ∧
    (s1.take 3).length ≠ 4 ∧ (s1.take 5).length ≠ 4 ∧ (g1Frame.take 36).length ≠ 37 ∧ (g2Payload.take 35).length ≠ 36 ∧
    (s1.take 4).length ≠ 3 ∧ ([] : List Byte).length ≠ 1 := by decide

theorem witness_GetObjectsRejectsNonPositiveIds : (0 : Word16).toInt ≤ 0 ∧ (-5 : Word16).toInt ≤ 0 := by decide

theorem witness_GetObjectsReturnsTheList :
    0 < (300 : Word16).toInt ∧ (300 : Word16) = (0x01 : Byte) ++ (0x2C : Byte) ∧ 9 ≠ 0 ∧ 4 = min 9 4 ∧ 1 = min 1 4 ∧
    (base [.ok [], .ok s1]).answerTo (.write p 0x24 [0x2C, 0x01]) = .ok [] ∧
    ((base [.ok [], .ok s1]).afterCall (.write p 0x24 [0x2C, 0x01]) (.ok [])).answerTo (.read p 0x26 (6 * 4)) =
      .ok s1 ∧
    ((base [.ok [], .ok (s1.take 6)]).afterCall (.write p 0x24 [0x2C, 0x01]) (.ok [])).answerTo (.read p 0x26 (6 * 1)) =
      .ok (s1.take 6) := by decide

theorem witness_GetObjectsStopsAtAFailedCall :
    0 < (2 : Word16).toInt ∧ (2 : Word16) = (0x00 : Byte) ++ (0x02 : Byte) ∧ 3 ≠ 0 ∧
    (base [.fail e1]).answerTo (.write p 0x24 [0x02, 0x00]) = .fail e1 ∧
    (base [.ok [], .fail e1]).answerTo (.write p 0x24 [0x02, 0x00]) = .ok [] ∧
    ((base [.ok [], .fail e1]).afterCall (.write p 0x24 [0x02, 0x00]) (.ok [])).answerTo
      (.read p 0x26 (6 * min 3 4)) = .fail e1 := by decide

/-- G1's frame holds G1's nine fields from byte 1 on. -/
theorem witness_g1_fields : HoldsFields g1Frame 1 (g1 (3 : Int)) := by
  refine ⟨?_, ?_, ?_, ?_, ?_, ?_, ?_, ?_, ?_⟩ <;> (unfold HoldsWord; decide)

theorem witness_SetSignatureWritesTheRecord :
    1 ≤ (g1 (3 : Int)).id ∧ (g1 (3 : Int)).id ≤ 7 ∧ g1Frame.length = 37 ∧
    ((g1Frame.getD 0 0).toNat : Int) = (g1 (3 : Int)).id ∧
    (base [.ok []]).answerTo (.write p 0xAF g1Frame) = .ok [] := by decide

theorem witness_GetSignatureRestoresTheId :
    (1 : Int) ≤ 7 ∧ (7 : Int) ≤ 7 ∧ (((7 : Byte).toNat : Nat) : Int) = 7 ∧ (((1 : Byte).toNat : Nat) : Int) = 1 ∧
    (base [.ok [], .ok g2Payload]).answerTo (.write p 0xAF [7]) = .ok [] ∧
    ((base [.ok [], .ok g2Payload]).afterCall (.write p 0xAF [7]) (.ok [])).answerTo (.read p 0xAF 36) =
      .ok g2Payload := by decide

theorem witness_SignatureOperationsRejectOtherIds :
    ((g1 (0 : Int)).id < 1 ∨ 7 < (g1 (0 : Int)).id) ∧ ((g1 (8 : Int)).id < 1 ∨ 7 < (g1 (8 : Int)).id) ∧
    ((-1 : Int) < 1 ∨ 7 < (-1 : Int)) ∧ ((257 : Int) < 1 ∨ 7 < (257 : Int)) := by decide

theorem witness_SignatureOperationsStopAtAFailedCall :
    (base [.fail e1]).answerTo (.write p 0xAF g1Frame) = .fail e1 ∧
    (base [.fail e1]).answerTo (.write p 0xAF [5]) = .fail e1 ∧
    (base [.ok [], .fail e1]).answerTo (.write p 0xAF [5]) = .ok [] ∧
    ((base [.ok [], .fail e1]).afterCall (.write p 0xAF [5]) (.ok [])).answerTo (.read p 0xAF 36) = .fail e1 ∧
    (1 : Int) ≤ 5 ∧ (5 : Int) ≤ 7 ∧ (((5 : Byte).toNat : Nat) : Int) = 5 := by decide

theorem witness_GetBrightnessReturnsTheByte :
    (base [.ok [0xC8]]).answerTo (.read p 0xE2 1) = .ok [0xC8] ∧
    (base [.fail e1]).answerTo (.read p 0xE2 1) = .fail e1 := by decide

theorem witness_SetBrightnessWritesTheByte :
    (0 : Byte).toNat ≤ 100 ∧ (100 : Byte).toNat ≤ 100 ∧
    (base [.ok []]).answerTo (.write p 0xE2 [100]) = .ok [] ∧
    (base [.fail e1]).answerTo (.write p 0xE2 [100]) = .fail e1 := by decide

theorem witness_GetWhiteBalanceModeReadsE3 :
    WbCode.injective (base [.ok [0x07]]).wbCode = true ∧
    (base [.ok [0x07]]).answerTo (.read p 0xE3 1) = .ok [0x07] ∧
    (base [.fail e1]).answerTo (.read p 0xE3 1) = .fail e1 := by decide

theorem witness_SetWhiteBalanceModeWritesItsCode :
    wbCodeOf (base []).wbCode .start = 0x01 ∧
    (base [.ok []]).answerTo (.write p 0xE3 [0x01]) = .ok [] ∧
    (base [.fail e1]).answerTo (.write p 0xE3 [0x01]) = .fail e1 := by decide

theorem witness_SetWhiteBalanceWritesTagAndChannels :
    [0x02, 0xC8, 0x64, 0x32] = [(base []).wbCode.manual, wbColor.red, wbColor.green, wbColor.blue] ∧
    (base [.ok []]).answerTo (.write p 0xE3 [0x02, 0xC8, 0x64, 0x32]) = .ok [] ∧
    (base [.fail e1]).answerTo (.write p 0xE3 [0x02, 0xC8, 0x64, 0x32]) = .fail e1 := by decide

theorem witness_GetWhiteBalanceReadsThreeChannels :
    (base [.ok [0xC8, 0x64, 0x32]]).answerTo (.read p 0xE4 3) = .ok [0xC8, 0x64, 0x32] ∧
    (base [.fail e1]).answerTo (.read p 0xE4 3) = .fail e1 := by decide

theorem witness_GetLedModeReadsEB :
    LedCode.injective (base [.ok [0x09]]).ledCode = true ∧
    (base [.ok [0x09]]).answerTo (.read p 0xEB 1) = .ok [0x09] ∧
    (base [.fail e1]).answerTo (.read p 0xEB 1) = .fail e1 := by decide

theorem witness_SetLedModeWritesItsCode :
    ledCodeOf (base []).ledCode .auto = 0x00 ∧
    (base [.ok []]).answerTo (.write p 0xEB [0x00]) = .ok [] ∧
    (base [.fail e1]).answerTo (.write p 0xEB [0x00]) = .fail e1 := by decide

theorem witness_SetLedColorClampsBrightness :
    (100 : Byte).toNat = min orange.brightness.toNat 100 ∧
    [0x64, 0xFF, 0x80, 0x00, 0x01] = [(100 : Byte), orange.red, orange.green, orange.blue, (base []).ledCode.manual] ∧
    (base [.ok []]).answerTo (.write p 0xE7 [0x64, 0xFF, 0x80, 0x00, 0x01]) = .ok [] ∧
    (base [.fail e1]).answerTo (.write p 0xE7 [0x64, 0xFF, 0x80, 0x00, 0x01]) = .fail e1 := by decide

theorem witness_GetLedColorReadsFourBytes :
    (base [.ok [0x64, 0xFF, 0x80, 0x00]]).answerTo (.read p 0xE7 4) = .ok [0x64, 0xFF, 0x80, 0x00] ∧
    (base [.fail e1]).answerTo (.read p 0xE7 4) = .fail e1 := by decide

/-- P5 case a, and a match at the first port. -/
theorem witness_FindFirstSensorReturnsTheFirstMatch :
    (base []).ports = [⟨1⟩] ++ ⟨2⟩ :: [⟨3⟩, ⟨4⟩] ∧ ([0x00] : List Byte).length = ([⟨1⟩] : List Port).length ∧
    (0x0B : Byte) ∉ [(0x00 : Byte)] ∧
    (base [.ok [0x00], .ok [0x0B]]).script = ([0x00] : List Byte).map (fun t => .ok [t]) ++ .ok [0x0B] :: [] ∧
    (base []).ports = [] ++ ⟨1⟩ :: [⟨2⟩, ⟨3⟩, ⟨4⟩] ∧ (0x0B : Byte) ∉ ([] : List Byte) ∧
    (base [.ok [0x0B]]).script = ([] : List Byte).map (fun t => .ok [t]) ++ .ok [0x0B] :: [] := by decide

/-- P5 cases c and d. -/
theorem witness_FindFirstSensorWithoutAMatch :
    ([0x00, 0x02, 0xFF, 0x0C] : List Byte).length = (base []).ports.length ∧
    (0x0B : Byte) ∉ ([0x00, 0x02, 0xFF, 0x0C] : List Byte) ∧
    (base [.ok [0x00], .ok [0x02], .ok [0xFF], .ok [0x0C]]).script =
      ([0x00, 0x02, 0xFF, 0x0C] : List Byte).map (fun t => .ok [t]) ++ [] ∧
    (base []).ports = [⟨1⟩] ++ ⟨2⟩ :: [⟨3⟩, ⟨4⟩] ∧
    (base [.ok [0x00], .fail e1]).script = ([0x00] : List Byte).map (fun t => .ok [t]) ++ .fail e1 :: [] := by decide

theorem witness_EveryCallIsOnTheMap :
    ∃ t, exec (.setLedColor p orange) (base [.ok []]) = .next t ∧ t.trace ≠ [] := ⟨_, rfl, by decide⟩

/-- On the double, with a register of another port listed. -/
theorem witness_OnlyTheNamedPortIsTouched :
    (∃ t, exec (.setBrightness p 60) doubled = .next t) ∧ (⟨2⟩ : Port) ≠ p := ⟨⟨_, rfl⟩, by decide⟩

theorem witness_OneResponseOrStuck :
    (base [.never]).ph = none ∧ (∃ t, exec (.getBrightness p) (base [.never]) = .next t) ∧
    (∃ t, exec (.getBrightness p) (base [.ok [1]]) = .next t) := ⟨rfl, ⟨_, rfl⟩, ⟨_, rfl⟩⟩

theorem witness_UnreturnedCallLeavesTheOperationInProgress :
    (base [.never]).answerTo (.read p 0xE2 1) = .never ∧ (base [.never]).answerTo (.write p 0xAF [7]) = .never ∧
    (base [.never]).answerTo (.write p 0xAF g1Frame) = .never ∧
    (100 : Byte).toNat ≤ 100 ∧ 0 < ((0x01 : Byte) ++ (0x2C : Byte) : Word16).toInt ∧ 4 ≠ 0 ∧
    1 ≤ (g1 (3 : Int)).id ∧ (g1 (3 : Int)).id ≤ 7 ∧ (1 : Int) ≤ (g1 (7 : Int)).id := by decide

theorem witness_RejectedExactlyWhenListed :
    rejects (.packObjectRequest 0) = true ∧ rejects (.getObjects p (-5) 4) = true ∧
    rejects (.setSignature p (g1 8)) = true ∧ rejects (.getSignature p 0) = true ∧
    ((nextOf (exec (.getSignature p 0) (base []))).map State.responses) = some ((base []).responses ++ [.rejected]) := by
  decide

theorem witness_CallCounts :
    (∃ t, exec (.getObjects p 1 4) (base [.ok [], .ok s1]) = .next t) ∧
    (∃ t, exec (.packObjectRequest 1) (base []) = .next t) ∧
    (∃ t, exec .findFirstSensor (base []) = .next t) := ⟨⟨_, rfl⟩, ⟨_, rfl⟩, ⟨_, rfl⟩⟩

/-- Two states with different pasts and the same transport. -/
theorem witness_NothingIsKeptBetweenOperations :
    State.SameEnvironment (base [.ok [1]]) { base [.ok [1]] with responses := [.rejected], trace := [.query p none] } ∧
    (base [.ok [1]]).ph = ({ base [.ok [1]] with responses := [.rejected], trace := [.query p none] } : State).ph ∧
    ∃ t, exec (.getBrightness p) (base [.ok [1]]) = .next t :=
  ⟨⟨rfl, rfl, rfl, rfl, rfl, rfl, rfl⟩, rfl, _, rfl⟩

/-- A state of the register-array double meets the invariant, and steps. -/
theorem witness_StepKeepsTheInvariant :
    (doubled.present [0x01, 0xE2, 0x01, 0x03, 0x4B]).Inv ∧
    ∃ t, step (doubled.present [0x01, 0xE2, 0x01, 0x03, 0x4B]) = .next t :=
  ⟨⟨by decide, by decide, by decide, by decide, by decide, by decide, by decide, fun _ => ⟨rfl, rfl⟩⟩, _, rfl⟩

theorem witness_ArrayWrittenOnlyOnOk :
    ((nextOf (exec (.getObjects p 1 4) (base [.ok [], .ok s1]))).map fun t =>
      decide (t.arrayOf ⟨0⟩ ≠ (base []).arrayOf ⟨0⟩)) = some true := by decide

theorem witness_WrittenBytesStandAtTheirRegisters :
    doubled.double = true ∧ g1Frame.length ≤ 37 ∧ 36 < g1Frame.length ∧
    (∀ k < [(0x4B : Byte)].length, 1000 ≠ cellAddr p (0xE2 + BitVec.ofNat 8 k)) ∧
    ∃ t, exec (.setBrightness p 75) doubled = .next t ∧ t.trace = doubled.trace ++ [.write p 0xE2 [75]] :=
  ⟨by decide, by decide, by decide, by decide, _, rfl, by decide⟩

theorem witness_DoubleReturnsTheLedColourSet :
    doubled.script = [] ∧ doubled.double = true ∧ ∃ t, exec (.setLedColor p orange) doubled = .next t :=
  ⟨rfl, rfl, _, rfl⟩

/-- P6's program, and its last request alone. -/
theorem witness_RunAnswersEveryRequest :
    ({ base [] with requests := [⟨[0x00, 0x00, 0x02], ⟨0⟩⟩, ⟨[0x02, 0x24, 0x01, 0x02, 0x01, 0x00, 0x01], ⟨1⟩⟩,
      ⟨[0x00, 0x00, 0x02], ⟨0⟩⟩] } : State).ph = none ∧
    decode [0x00, 0x00, 0x02] = .ok .findFirstSensor ∧ runs .findFirstSensor = true ∧
    decode [0x02, 0x24, 0x01, 0x02, 0x01, 0x00, 0x01] = .ok (.getObjects ⟨2⟩ 1 1) ∧
    runs (.getObjects ⟨2⟩ 1 1) = true := by decide

/-- Each outcome of such a run: the last operation stuck, and a fault after an earlier one got stuck. -/
theorem witness_RunAnswersEveryRequest_stuck :
    (∃ t, Sys2Proof.core.run 1 { base [.never] with requests := [⟨[0x00, 0x00, 0x02], ⟨0⟩⟩] } = .next t ∧
      State.ph t = some (.scan 0) ∧ State.responses t = []) ∧
    Sys2Proof.core.run 2 { base [.never] with requests := [⟨[0x00, 0x00, 0x02], ⟨0⟩⟩, ⟨[0x00, 0x00, 0x02], ⟨0⟩⟩] } =
      .fault Fault.transportNeverReturns := ⟨⟨_, rfl, by decide⟩, rfl⟩

end Sys2Proof.Tests
end

/-! PROOF of O52 (`Obligations.NothingIsKeptBetweenOperations`, R20). Two runs of one operation are followed side by side:
each of the sequencer's operations keeps them alike, hence every operation does. -/

namespace Sys2Proof.Machine

/-! ## Two lists grown by the same entries -/

/-- The lists `m₁` and `m₂` are `l₁` and `l₂` with the same entries appended. -/
def SameGrowth {α : Type} (l₁ l₂ m₁ m₂ : List α) : Prop := ∃ xs, m₁ = l₁ ++ xs ∧ m₂ = l₂ ++ xs

theorem SameGrowth.start {α : Type} (l₁ l₂ : List α) : SameGrowth l₁ l₂ l₁ l₂ := ⟨[], by simp, by simp⟩

theorem SameGrowth.append {α : Type} {l₁ l₂ m₁ m₂ : List α} (h : SameGrowth l₁ l₂ m₁ m₂) (ys : List α) :
    SameGrowth l₁ l₂ (m₁ ++ ys) (m₂ ++ ys) := by
  obtain ⟨xs, rfl, rfl⟩ := h
  exact ⟨xs ++ ys, List.append_assoc .., List.append_assoc ..⟩

/-! ## Two runs side by side -/

/-- Two runs, begun in `s₁` and `s₂` and now in `u₁` and `u₂`, with the same parameters, transport and phase, that have
delivered the same responses and made the same calls since they began. -/
structure RunsAlike (s₁ s₂ u₁ u₂ : State) : Prop where
  env : u₁.SameEnvironment u₂
  ph : u₁.ph = u₂.ph
  responses : SameGrowth s₁.responses s₂.responses u₁.responses u₂.responses
  trace : SameGrowth s₁.trace s₂.trace u₁.trace u₂.trace

namespace RunsAlike

variable {s₁ s₂ u₁ u₂ : State}

theorem start (env : s₁.SameEnvironment s₂) (ph : s₁.ph = s₂.ph) : RunsAlike s₁ s₂ s₁ s₂ :=
  ⟨env, ph, .start _ _, .start _ _⟩

theorem enter (h : RunsAlike s₁ s₂ u₁ u₂) (k : Phase) : RunsAlike s₁ s₂ (u₁.enter k) (u₂.enter k) :=
  ⟨{ h.env with }, rfl, h.responses, h.trace⟩

theorem fillArray (h : RunsAlike s₁ s₂ u₁ u₂) (rs : List ObjectReading) :
    RunsAlike s₁ s₂ (u₁.fillArray rs) (u₂.fillArray rs) :=
  ⟨{ h.env with }, h.ph, h.responses, h.trace⟩

theorem respond (h : RunsAlike s₁ s₂ u₁ u₂) (r : Response) : RunsAlike s₁ s₂ (u₁.respond r) (u₂.respond r) :=
  ⟨{ h.env with }, h.ph, h.responses.append [r], h.trace⟩

theorem deliver (h : RunsAlike s₁ s₂ u₁ u₂) (r : Response) : RunsAlike s₁ s₂ (u₁.deliver r) (u₂.deliver r) :=
  ⟨{ h.env with }, rfl, h.responses.append [r], h.trace⟩

theorem reject (h : RunsAlike s₁ s₂ u₁ u₂) : RunsAlike s₁ s₂ u₁.reject u₂.reject :=
  (h.enter .check).deliver .rejected

theorem afterCall (h : RunsAlike s₁ s₂ u₁ u₂) (c : Call) (a : Answer) :
    RunsAlike s₁ s₂ (u₁.afterCall c a) (u₂.afterCall c a) where
  env :=
    { h.env with
      script := congrArg List.tail h.env.script
      memory := by simp [h.env.double, h.env.memory]
      draws := congrArg (· + 1) h.env.draws }
  ph := h.ph
  responses := h.responses
  trace := h.trace.append [c.event a.bytes?]

/-- The transport answers both runs alike, so a call leaves them alike if what follows an `ok` does. -/
theorem transact (h : RunsAlike s₁ s₂ u₁ u₂) (k : Phase) (c : Call) {next₁ next₂ : List Byte → State → State}
    (go : ∀ b v₁ v₂, RunsAlike s₁ s₂ v₁ v₂ → RunsAlike s₁ s₂ (next₁ b v₁) (next₂ b v₂)) :
    RunsAlike s₁ s₂ (u₁.transact k c next₁) (u₂.transact k c next₂) := by
  have answer : u₁.answerTo c = u₂.answerTo c :=
    answerTo_congr c h.env.script h.env.double h.env.memory h.env.draws
  have called : ∀ a, RunsAlike s₁ s₂ ((u₁.enter k).afterCall c a) ((u₂.enter k).afterCall c a) :=
    (h.enter k).afterCall c
  cases q : u₂.answerTo c with
  | ok b =>
    rw [transact_ok (answer.trans q), transact_ok q]
    exact go _ _ _ (called _)
  | fail e =>
    rw [transact_fail (answer.trans q), transact_fail q]
    exact (called _).deliver _
  | never =>
    rw [transact_never (answer.trans q), transact_never q]
    exact called _

/-! ## The operations' shared shapes -/

theorem oneCall (h : RunsAlike s₁ s₂ u₁ u₂) (c : Call) (r : List Byte → Response) :
    RunsAlike s₁ s₂ ((u₁.enter .check).transact .t1 c fun b t => t.deliver (r b))
      ((u₂.enter .check).transact .t1 c fun b t => t.deliver (r b)) :=
  (h.enter .check).transact .t1 c fun b _ _ hv => hv.deliver (r b)

theorem runGet (h : RunsAlike s₁ s₂ u₁ u₂) (p : Port) (reg : Byte) (n : Nat) (f : List Byte → Result) :
    RunsAlike s₁ s₂ (runGet p reg n f u₁) (runGet p reg n f u₂) :=
  h.oneCall (.read p reg n) fun b => .ok (f b)

theorem runSet (h : RunsAlike s₁ s₂ u₁ u₂) (p : Port) (reg : Byte) (f : List Byte) :
    RunsAlike s₁ s₂ (runSet p reg f u₁) (runSet p reg f u₂) :=
  h.oneCall (.write p reg f) fun _ => .ok .nothing

theorem runGetObjects (h : RunsAlike s₁ s₂ u₁ u₂) (p : Port) (id : Word16) (f : List Byte) (n : Nat) :
    RunsAlike s₁ s₂ (runGetObjects p id f n u₁) (runGetObjects p id f n u₂) :=
  (h.enter .check).transact .t1 _ fun _ _ _ hv =>
    hv.transact .t2 _ fun _ _ _ hw => (hw.fillArray _).deliver _

theorem scanPorts (ps : List Port) (k : Nat) (h : RunsAlike s₁ s₂ u₁ u₂) :
    RunsAlike s₁ s₂ (scanPorts ps k u₁) (scanPorts ps k u₂) := by
  induction ps generalizing k u₁ u₂ with
  | nil => exact (h.enter _).deliver _
  | cons p ps ih =>
    refine h.transact (.scan k) (.query p) fun b v₁ v₂ hv => ?_
    by_cases hb : byteAt b 0 = visionType
    · simpa only [if_pos hb] using hv.deliver _
    · simpa only [if_neg hb] using ih (k + 1) hv

end RunsAlike

/-! ## Outcomes side by side -/

/-- Two outcomes of runs begun in `s₁` and `s₂`: next states of runs alike, or the same reason to stop. -/
inductive OutcomesAlike (s₁ s₂ : State) :
    Host.Outcome State Fault Refusal → Host.Outcome State Fault Refusal → Prop where
  | next {t₁ t₂ : State} : RunsAlike s₁ s₂ t₁ t₂ → OutcomesAlike s₁ s₂ (.next t₁) (.next t₂)
  | fault (r : Fault) : OutcomesAlike s₁ s₂ (.fault r) (.fault r)
  | refused (r : Refusal) : OutcomesAlike s₁ s₂ (.refused r) (.refused r)

variable {s₁ s₂ : State}

/-- A check of the operands decides alike for both runs. -/
theorem OutcomesAlike.ite {c : Prop} [Decidable c] {o₁ o₂ p₁ p₂ : Host.Outcome State Fault Refusal}
    (pos : OutcomesAlike s₁ s₂ o₁ o₂) (neg : OutcomesAlike s₁ s₂ p₁ p₂) :
    OutcomesAlike s₁ s₂ (if c then o₁ else p₁) (if c then o₂ else p₂) := by
  by_cases hc : c
  · simpa only [if_pos hc] using pos
  · simpa only [if_neg hc] using neg

theorem execPackObjectRequest_alike (h : RunsAlike s₁ s₂ s₁ s₂) (id : Word16) :
    OutcomesAlike s₁ s₂ (execPackObjectRequest id s₁) (execPackObjectRequest id s₂) := by
  unfold execPackObjectRequest
  cases packObjectRequest id with
  | none => exact .next (h.respond _)
  | some f => exact .next (h.respond _)

theorem execGetObjects_alike (h : RunsAlike s₁ s₂ s₁ s₂) (p : Port) (id : Word16) (m : Nat) :
    OutcomesAlike s₁ s₂ (execGetObjects p id m s₁) (execGetObjects p id m s₂) := by
  unfold execGetObjects
  cases packObjectRequest id with
  | none => exact .next h.reject
  | some f => exact .ite (.refused _) (.next (h.runGetObjects p id f _))

theorem execGetSignature_alike (h : RunsAlike s₁ s₂ s₁ s₂) (p : Port) (id : Int) :
    OutcomesAlike s₁ s₂ (execGetSignature p id s₁) (execGetSignature p id s₂) :=
  .ite (.next ((h.enter .check).transact .t1 _ fun _ _ _ hv => hv.transact .t2 _ fun _ _ _ hw => hw.deliver _))
    (.next h.reject)

/-- One operation run in two states alike has outcomes alike: the responses and frames built from the state use its
parameters alone. -/
theorem exec_alike (i : Instr) (h : RunsAlike s₁ s₂ s₁ s₂) : OutcomesAlike s₁ s₂ (exec i s₁) (exec i s₂) := by
  have wb := h.env.wbCode
  have led := h.env.ledCode
  cases i with
  | pack32le v => exact .next (h.respond _)
  | unpack32le b => exact .ite (.next (h.respond _)) (.refused _)
  | packObjectRequest id => exact execPackObjectRequest_alike h id
  | decodeObjectList b m id => exact .ite (.next ((h.fillArray _).respond _)) (.refused _)
  | encodeSignature sig => exact .next (h.respond _)
  | decodeSignature b => exact .ite (.next (h.respond _)) (.refused _)
  | encodeSignatureSelect id => exact .next (h.respond _)
  | decodeSignaturePayload b id => exact .ite (.next (h.respond _)) (.refused _)
  | encodeByte v => exact .next (h.respond _)
  | decodeByte b => exact .ite (.next (h.respond _)) (.refused _)
  | encodeWbSet c => simpa only [exec, execEncodeWbSet, wb] using .next (h.respond _)
  | decodeWbRgb b => exact .ite (.next (h.respond _)) (.refused _)
  | encodeLedSet c => simpa only [exec, execEncodeLedSet, led] using .next (h.respond _)
  | decodeLedGet b => exact .ite (.next (h.respond _)) (.refused _)
  | encodeWbMode m => simpa only [exec, execEncodeWbMode, wb] using .next (h.respond _)
  | decodeWbMode b => simpa only [exec, execDecodeWbMode, wb] using .ite (.next (h.respond _)) (.refused _)
  | encodeLedMode m => simpa only [exec, execEncodeLedMode, led] using .next (h.respond _)
  | decodeLedMode b => simpa only [exec, execDecodeLedMode, led] using .ite (.next (h.respond _)) (.refused _)
  | getObjects p id m => exact execGetObjects_alike h p id m
  | setSignature p sig => exact .ite (.next (h.oneCall _ _)) (.next h.reject)
  | getSignature p id => exact execGetSignature_alike h p id
  | getBrightness p => exact .next (h.runGet ..)
  | setBrightness p v => exact .ite (.next (h.runSet ..)) (.refused _)
  | getWhiteBalanceMode p => simpa only [exec, execGetWhiteBalanceMode, wb] using .next (h.runGet ..)
  | setWhiteBalanceMode p m => simpa only [exec, execSetWhiteBalanceMode, wb] using .next (h.runSet ..)
  | setWhiteBalance p c => simpa only [exec, execSetWhiteBalance, wb] using .next (h.runSet ..)
  | getWhiteBalance p => exact .next (h.runGet ..)
  | getLedMode p => simpa only [exec, execGetLedMode, led] using .next (h.runGet ..)
  | setLedMode p m => simpa only [exec, execSetLedMode, led] using .next (h.runSet ..)
  | setLedColor p c => simpa only [exec, execSetLedColor, led] using .next (h.runSet ..)
  | getLedColor p => exact .next (h.runGet ..)
  | findFirstSensor => simpa only [exec, execFindFirstSensor, h.env.ports] using .next (h.scanPorts ..)

/-- Settles O52: the two runs begin alike, so their outcomes are alike. -/
theorem nothingIsKeptBetweenOperations : Obligations.NothingIsKeptBetweenOperations := by
  unfold Obligations.NothingIsKeptBetweenOperations
  intro i s₁ s₂ t₁ env ph run
  have alike := exec_alike i (.start env ph)
  rw [run] at alike
  generalize exec i s₂ = o at alike ⊢
  cases alike with
  | next ht =>
    obtain ⟨rs, hr₁, hr₂⟩ := ht.responses
    obtain ⟨es, he₁, he₂⟩ := ht.trace
    exact ⟨_, rs, es, rfl, ht.env, ht.ph, hr₁, hr₂, he₁, he₂⟩

end Sys2Proof.Machine

/-! PROOF of O46 (`Obligations.EveryCallIsOnTheMap`, R57, R92). A run is compared with the calls of a row: a transport call
uses up the row's first entry, everything else the sequencer does leaves the trace alone, so an operation's calls are a front
part of its row. -/

namespace Sys2Proof.Machine

/-! ## A run and the calls it may make -/

/-- Kind, register address and byte count of a call: the shape of its event. -/
def Call.shape (c : Call) : Nat × Byte × Nat := (c.event none).shape

/-- The answer has no part in the shape of a call's event. -/
theorem Call.event_shape (c : Call) (a : Option (List Byte)) : (c.event a).shape = c.shape := by
  cases c <;> rfl

/-- From `s` to `t` the calls made are a front part of `row`. -/
def CallsWithin (row : List (Nat × Byte × Nat)) (s t : State) : Prop :=
  ∃ es : List Event, t.trace = s.trace ++ es ∧ es.map Event.shape <+: row

namespace CallsWithin

variable {row : List (Nat × Byte × Nat)} {s t : State}

theorem of_trace_eq (h : t.trace = s.trace) : CallsWithin row s t := ⟨[], by simp [h], List.nil_prefix⟩

theorem deliver (s : State) (r : Response) : CallsWithin row s (s.deliver r) := of_trace_eq rfl

theorem reject (s : State) : CallsWithin row s s.reject := of_trace_eq rfl

/-- The call of the row's first entry, followed by calls of the rest of the row. -/
theorem afterCall {k : Phase} {c : Call} {a : Answer} (h : CallsWithin row ((s.enter k).afterCall c a) t) :
    CallsWithin (c.shape :: row) s t := by
  obtain ⟨es, ht, hes⟩ := h
  refine ⟨c.event a.bytes? :: es, by simp [ht], ?_⟩
  rw [List.map_cons, Call.event_shape]
  exact List.cons_prefix_cons.2 ⟨rfl, hes⟩

/-- A call that fails or never returns is the last one, so `transact` keeps to the row if what follows an `ok` does. -/
theorem transact {k : Phase} {c : Call} {next : List Byte → State → State}
    (go : ∀ b u, CallsWithin row u (next b u)) : CallsWithin (c.shape :: row) s (s.transact k c next) := by
  rcases transact_cases s k c next with ⟨b, -, e⟩ | ⟨x, -, e⟩ | ⟨-, e⟩ <;> rw [e]
  · exact afterCall (go _ _)
  · exact afterCall (deliver _ _)
  · exact afterCall (of_trace_eq rfl)

/-! ## The operations' shared shapes -/

theorem oneCall (s : State) (c : Call) (r : List Byte → Response) :
    CallsWithin [c.shape] s ((s.enter .check).transact .t1 c fun b t => t.deliver (r b)) :=
  transact (s := s.enter .check) fun _ u => deliver u _

theorem runGet (s : State) (p : Port) (reg : Byte) (n : Nat) (f : List Byte → Result) :
    CallsWithin [(0, reg, n)] s (runGet p reg n f s) :=
  oneCall s (.read p reg n) fun b => .ok (f b)

theorem runSet (s : State) (p : Port) (reg : Byte) (f : List Byte) :
    CallsWithin [(1, reg, f.length)] s (runSet p reg f s) :=
  oneCall s (.write p reg f) fun _ => .ok .nothing

theorem twoCalls (s : State) (c d : Call) {fin : List Byte → State → State}
    (go : ∀ b u, (fin b u).trace = u.trace) :
    CallsWithin [c.shape, d.shape] s ((s.enter .check).transact .t1 c fun _ u => u.transact .t2 d fin) :=
  transact (s := s.enter .check) fun _ _ => transact fun b u => of_trace_eq (go b u)

theorem runGetObjects (s : State) (p : Port) (id : Word16) (f : List Byte) (n : Nat) :
    CallsWithin [(1, 0x24, f.length), (0, 0x26, 6 * n)] s (runGetObjects p id f n s) :=
  twoCalls s (.write p regObjId f) (.read p regObjData (recLen * n)) fun _ _ => rfl

/-- At most one query a port (R270). -/
theorem scanPorts (ps : List Port) (k : Nat) (s : State) :
    CallsWithin (List.replicate ps.length (2, 0, 0)) s (scanPorts ps k s) := by
  induction ps generalizing k s with
  | nil => exact of_trace_eq rfl
  | cons p ps ih =>
    refine transact (c := .query p) fun b u => ?_
    by_cases hb : byteAt b 0 = visionType
    · simpa only [if_pos hb] using deliver u _
    · simpa only [if_neg hb] using ih (k + 1) u

end CallsWithin

/-! ## Outcomes -/

/-- An outcome from `s` whose next state, if there is one, was reached by calls of a front part of `row`. -/
def OutcomeWithin (row : List (Nat × Byte × Nat)) (s : State) (o : Host.Outcome State Fault Refusal) : Prop :=
  ∀ t, o = .next t → CallsWithin row s t

variable {row : List (Nat × Byte × Nat)} {s t : State}

theorem OutcomeWithin.next (h : CallsWithin row s t) : OutcomeWithin row s (.next t) := by
  rintro _ ⟨⟩
  exact h

theorem OutcomeWithin.refused (r : Refusal) : OutcomeWithin row s (.refused r) := nofun

theorem OutcomeWithin.respond (s : State) (r : Response) : OutcomeWithin row s (.next (s.respond r)) :=
  .next (.of_trace_eq rfl)

theorem OutcomeWithin.ite {c : Prop} [Decidable c] {o p : Host.Outcome State Fault Refusal}
    (pos : OutcomeWithin row s o) (neg : OutcomeWithin row s p) : OutcomeWithin row s (if c then o else p) := by
  by_cases hc : c
  · simpa only [if_pos hc] using pos
  · simpa only [if_neg hc] using neg

/-- The frame OBJREQ has two bytes (R140). -/
theorem packObjectRequest_length {id : Word16} {f : List Byte} (h : packObjectRequest id = some f) : f.length = 2 := by
  unfold packObjectRequest at h
  split at h <;> cases h
  rfl

theorem execPackObjectRequest_within (id : Word16) (s : State) :
    OutcomeWithin row s (execPackObjectRequest id s) := by
  unfold execPackObjectRequest
  cases packObjectRequest id with
  | none => exact .respond s _
  | some f => exact .respond s _

theorem execGetObjects_within (p : Port) (id : Word16) (m : Nat) (s : State) :
    OutcomeWithin [(1, 0x24, 2), (0, 0x26, 6 * min m 4)] s (execGetObjects p id m s) := by
  unfold execGetObjects
  cases hf : packObjectRequest id with
  | none => exact .next (.reject s)
  | some f =>
    have calls := CallsWithin.runGetObjects s p id f (min m maxObj)
    rw [packObjectRequest_length hf] at calls
    exact .ite (.refused _) (.next calls)

theorem execGetSignature_within (p : Port) (id : Int) (s : State) :
    OutcomeWithin [(1, 0xAF, 1), (0, 0xAF, 36)] s (execGetSignature p id s) :=
  .ite (.next (.twoCalls s (.write p regSig (encodeSignatureSelect (narrowId id))) (.read p regSig sigPayloadLen)
    fun _ _ => rfl)) (.next (.reject s))

/-- Every operation keeps to its own row of the operation map. -/
theorem exec_within (i : Instr) (s : State) : OutcomeWithin (mapCalls s.ports.length i) s (exec i s) := by
  cases i with
  | pack32le v => exact .respond s _
  | unpack32le b => exact .ite (.respond s _) (.refused _)
  | packObjectRequest id => exact execPackObjectRequest_within id s
  | decodeObjectList b m id => exact .ite (.next (.of_trace_eq rfl)) (.refused _)
  | encodeSignature sig => exact .respond s _
  | decodeSignature b => exact .ite (.respond s _) (.refused _)
  | encodeSignatureSelect id => exact .respond s _
  | decodeSignaturePayload b id => exact .ite (.respond s _) (.refused _)
  | encodeByte v => exact .respond s _
  | decodeByte b => exact .ite (.respond s _) (.refused _)
  | encodeWbSet c => exact .respond s _
  | decodeWbRgb b => exact .ite (.respond s _) (.refused _)
  | encodeLedSet c => exact .respond s _
  | decodeLedGet b => exact .ite (.respond s _) (.refused _)
  | encodeWbMode m => exact .respond s _
  | decodeWbMode b => exact .ite (.respond s _) (.refused _)
  | encodeLedMode m => exact .respond s _
  | decodeLedMode b => exact .ite (.respond s _) (.refused _)
  | getObjects p id m => exact execGetObjects_within p id m s
  | setSignature p sig => exact .ite (.next (.oneCall s (.write p regSig _) _)) (.next (.reject s))
  | getSignature p id => exact execGetSignature_within p id s
  | getBrightness p => exact .next (.runGet s ..)
  | setBrightness p v => exact .ite (.next (.runSet s ..)) (.refused _)
  | getWhiteBalanceMode p => exact .next (.runGet s ..)
  | setWhiteBalanceMode p m => exact .next (.runSet s ..)
  | setWhiteBalance p c => exact .next (.runSet s ..)
  | getWhiteBalance p => exact .next (.runGet s ..)
  | getLedMode p => exact .next (.runGet s ..)
  | setLedMode p m => exact .next (.runSet s ..)
  | setLedColor p c => exact .next (.runSet s ..)
  | getLedColor p => exact .next (.runGet s ..)
  | findFirstSensor => exact .next (.scanPorts s.ports 0 s)

/-- Settles O46: the calls of every operation are a front part of its row. -/
theorem everyCallIsOnTheMap : Obligations.EveryCallIsOnTheMap := by
  unfold Obligations.EveryCallIsOnTheMap
  intro i s t run
  exact exec_within i s t run

end Sys2Proof.Machine

/-! PROOF of O9 (`Obligations.PackGivesLittleEndianBytes`, R120) and O11 (`Obligations.HelpersAreInverse`, R123). Both
turn on `HoldsWord`: `pack32le v` holds the word `v`, the word a frame holds is the one `unpack32le` reads, and four bytes
are fixed by the word they hold. -/

namespace Sys2Proof.Machine

/-! ## The bytes of a packed word -/

@[simp] theorem pack32le_length (v : Word32) : (pack32le v).length = 4 := rfl

/-- Byte `j` of a packed word is its bits from `8 * j` on. -/
theorem pack32le_getD (v : Word32) {j : Nat} (hj : j < 4) : (pack32le v).getD j 0 = v.extractLsb' (8 * j) 8 := by
  match j, hj with
  | 0, _ | 1, _ | 2, _ | 3, _ => rfl

/-- `pack32le` puts the digits of the pattern to base 256 in order, least significant first. -/
theorem holdsWord_pack32le (v : Word32) : HoldsWord (pack32le v) 0 v := by
  intro j hj
  rw [Nat.zero_add, pack32le_getD v hj, BitVec.extractLsb'_toNat, Nat.shiftRight_eq_div_pow, Nat.pow_mul]

/-- Four bytes are fixed by the word they hold. -/
theorem eq_of_holdsWord {f g : List Byte} {v : Word32} (hf : f.length = 4) (hg : g.length = 4)
    (f_holds : HoldsWord f 0 v) (g_holds : HoldsWord g 0 v) : f = g := by
  refine List.ext_getElem (hf.trans hg.symm) fun j hjf hjg => BitVec.eq_of_toNat_eq ?_
  have same_digit := (f_holds j (hf ▸ hjf)).trans (g_holds j (hg ▸ hjg)).symm
  simpa [hjf, hjg] using same_digit

/-! ## The helpers undo each other -/

@[simp] theorem unpack32le_pack32le (v : Word32) : unpack32le (pack32le v) = v :=
  join32_of_holdsWord (holdsWord_pack32le v)

theorem pack32le_unpack32le {b : List Byte} (hb : b.length = 4) : pack32le (unpack32le b) = b :=
  eq_of_holdsWord (pack32le_length _) hb (holdsWord_pack32le _) (holdsWord_join32 b 0)

/-- Settles O9: the operation answers `pack32le v`, which holds `v`. -/
theorem packGivesLittleEndianBytes : Obligations.PackGivesLittleEndianBytes := by
  unfold Obligations.PackGivesLittleEndianBytes
  intro v s
  exact ⟨pack32le v, rfl, pack32le_length v, holdsWord_pack32le v⟩

/-- Settles O11: the two laws on bytes and patterns; the signed and unsigned readings agree because the patterns do. -/
theorem helpersAreInverse : Obligations.HelpersAreInverse := by
  unfold Obligations.HelpersAreInverse
  exact ⟨unpack32le_pack32le, fun _ hb => pack32le_unpack32le hb, fun u => congrArg BitVec.toNat (unpack32le_pack32le u),
    fun v => congrArg BitVec.toInt (unpack32le_pack32le v)⟩

end Sys2Proof.Machine

/-! PROOF of O20 (`Obligations.BrightnessBytePassesUnchanged`, R181). The one test on the way is the frame length: a
one-byte frame passes it, and no test looks at the byte's value. -/

namespace Sys2Proof.Machine

/-- R181 without the clamp of R184: a byte packed and read back is the byte, above 100 too. -/
@[simp] theorem decodeByte_encodeByte (v : Byte) : decodeByte (encodeByte v) = v := rfl

@[simp] theorem exec_encodeByte (v : Byte) (s : State) :
    exec (.encodeByte v) s = .next (s.respond (.ok (.frame (encodeByte v)))) := rfl

theorem exec_decodeByte_of_length {b : List Byte} (hb : b.length = 1) (s : State) :
    exec (.decodeByte b) s = .next (s.respond (.ok (.byte (decodeByte b)))) := if_pos hb

/-- Settles O20: `decodeByte` reads `[v]`, which is the frame `encodeByte v`, back as `v`. -/
theorem brightnessBytePassesUnchanged : Obligations.BrightnessBytePassesUnchanged := by
  unfold Obligations.BrightnessBytePassesUnchanged
  intro v s
  have decoded : exec (.decodeByte (encodeByte v)) s = .next (s.respond (.ok (.byte v))) := by
    rw [exec_decodeByte_of_length rfl, decodeByte_encodeByte]
  exact ⟨exec_encodeByte v s, decoded⟩

end Sys2Proof.Machine

/-! PROOF of O51 (`Obligations.CallCounts`, R206, R230, R270, R96, R284). A call adds one event to the trace, whatever it is
answered; what follows it runs only after an `ok`, and a write's `ok` can only be `ok []`. The operations that make no call and
the scan's bound are read off the operation map (`exec_within`). -/

namespace Sys2Proof.Machine

/-! ## Answers -/

/-- The transport contract: every answer fits its call (R51 to R53). -/
theorem answerTo_fits (s : State) (c : Call) : (s.answerTo c).fits c = true := by
  unfold State.answerTo
  split
  · exact unscriptedAnswer_fits s c
  · split
    · assumption
    · exact unscriptedAnswer_fits s c

/-- An `ok` answer to a write holds no bytes (R51). -/
theorem answerTo_write_ok {s : State} {p : Port} {reg : Byte} {f b : List Byte}
    (h : s.answerTo (.write p reg f) = .ok b) : b = [] := by
  have fits := answerTo_fits s (.write p reg f)
  rw [h] at fits
  simpa [Answer.fits, Call.answerLen] using fits

/-! ## The number of calls of a run -/

/-- From `s` to `t` exactly `n` calls are made. -/
def CallsMade (n : Nat) (s t : State) : Prop := t.trace.length = s.trace.length + n

/-- A run within a row makes at most as many calls as the row holds. -/
theorem CallsWithin.callsMade_le {row : List (Nat × Byte × Nat)} {s t : State} (h : CallsWithin row s t) :
    ∃ n, CallsMade n s t ∧ n ≤ row.length := by
  obtain ⟨es, ht, hes⟩ := h
  exact ⟨es.length, by rw [CallsMade, ht, List.length_append], by simpa using hes.length_le⟩

namespace CallsMade

variable {s t : State} {c : Call} {k : Phase} {n : Nat} {next fin : List Byte → State → State}

theorem of_trace_eq (h : t.trace = s.trace) : CallsMade 0 s t := congrArg List.length h

theorem reject (s : State) : CallsMade 0 s s.reject := of_trace_eq rfl

/-- The call itself counts, whatever it is answered (log 25). -/
theorem afterCall {a : Answer} (h : CallsMade n ((s.enter k).afterCall c a) t) : CallsMade (n + 1) s t := by
  simp only [CallsMade, State.afterCall_trace, State.enter_trace, List.length_append, List.length_singleton] at h ⊢
  omega

theorem transact_of_ok {b : List Byte} (h : s.answerTo c = .ok b) (go : ∀ u, CallsMade n u (next b u)) :
    CallsMade (n + 1) s (s.transact k c next) := by
  rw [transact_ok h]
  exact afterCall (go _)

/-- A call that fails or never returns is the last one (R200, U18). -/
theorem transact_of_not_ok (h : ∀ b, s.answerTo c ≠ .ok b) : CallsMade 1 s (s.transact k c next) := by
  rcases transact_cases s k c next with ⟨b, q, -⟩ | ⟨x, -, e⟩ | ⟨-, e⟩
  · exact absurd q (h b)
  · exact e ▸ afterCall (of_trace_eq rfl)
  · exact e ▸ afterCall (of_trace_eq rfl)

/-- A call with no call after it. -/
theorem transact_last (go : ∀ b u, (next b u).trace = u.trace) : CallsMade 1 s (s.transact k c next) := by
  by_cases h : ∃ b, s.answerTo c = .ok b
  · obtain ⟨b, hb⟩ := h
    exact transact_of_ok hb fun u => of_trace_eq (go b u)
  · exact transact_of_not_ok (not_exists.1 h)

/-! ## The operations' shared shapes -/

theorem oneCall (s : State) (c : Call) (r : List Byte → Response) :
    CallsMade 1 s ((s.enter .check).transact .t1 c fun b u => u.deliver (r b)) :=
  transact_last (s := s.enter .check) fun _ _ => rfl

theorem runGet (s : State) (p : Port) (reg : Byte) (n : Nat) (f : List Byte → Result) :
    CallsMade 1 s (runGet p reg n f s) :=
  oneCall s (.read p reg n) fun b => .ok (f b)

theorem runSet (s : State) (p : Port) (reg : Byte) (f : List Byte) : CallsMade 1 s (runSet p reg f s) :=
  oneCall s (.write p reg f) fun _ => .ok .nothing

/-- A write and, when it is answered `ok`, one call more (R206). -/
theorem exists_writeThenCall (s : State) (p : Port) (reg : Byte) (f : List Byte) (d : Call)
    (go : ∀ b u, (fin b u).trace = u.trace) :
    ∃ n, CallsMade n s ((s.enter .check).transact .t1 (.write p reg f) fun _ u => u.transact .t2 d fin) ∧
      if s.answerTo (.write p reg f) = .ok [] then n = 2 else n = 1 := by
  by_cases ok : s.answerTo (.write p reg f) = .ok []
  · simp only [if_pos ok]
    exact ⟨2, transact_of_ok (s := s.enter .check) ok fun _ => transact_last go, rfl⟩
  · simp only [if_neg ok]
    exact ⟨1, transact_of_not_ok (s := s.enter .check) fun b hb => ok (answerTo_write_ok hb ▸ hb), rfl⟩

end CallsMade

/-! ## The operations that check an operand -/

variable {s t : State}

theorem packObjectRequest_of_nonpos {id : Word16} (h : id.toInt ≤ 0) : packObjectRequest id = none := by
  simp [packObjectRequest, objectIdRejected, h]

theorem packObjectRequest_of_pos {id : Word16} (h : ¬id.toInt ≤ 0) :
    packObjectRequest id = some [id.extractLsb' 0 8, id.extractLsb' 8 8] := by
  simp [packObjectRequest, objectIdRejected, h]

theorem validSigId_iff_not_outside (id : Int) : validSigId id = true ↔ ¬(id < 1 ∨ 7 < id) := by
  rw [validSigId_iff]
  omega

theorem execGetObjects_callsMade {p : Port} {id : Word16} {m : Nat} (run : exec (.getObjects p id m) s = .next t) :
    ∃ n, CallsMade n s t ∧
      if id.toInt ≤ 0 then n = 0
      else if s.answerTo (.write p 0x24 [id.extractLsb' 0 8, id.extractLsb' 8 8]) = .ok [] then n = 2 else n = 1 := by
  by_cases rejected : id.toInt ≤ 0
  · simp only [exec, execGetObjects, packObjectRequest_of_nonpos rejected] at run
    cases run
    exact ⟨0, .reject s, (if_pos rejected).mpr rfl⟩
  · simp only [exec, execGetObjects, packObjectRequest_of_pos rejected] at run
    split at run <;> cases run
    simp only [if_neg rejected]
    exact CallsMade.exists_writeThenCall s p regObjId _ (.read p regObjData _) fun _ _ => rfl

theorem execSetSignature_callsMade {p : Port} {sig : HostSignature} (run : exec (.setSignature p sig) s = .next t) :
    ∃ n, CallsMade n s t ∧ if sig.id < 1 ∨ 7 < sig.id then n = 0 else n = 1 := by
  simp only [exec, execSetSignature, validSigId_iff_not_outside, ite_not] at run
  split at run <;> cases run
  case isTrue outside => exact ⟨0, .reject s, (if_pos outside).mpr rfl⟩
  case isFalse inside => exact ⟨1, .oneCall s (.write p regSig _) _, (if_neg inside).mpr rfl⟩

theorem execGetSignature_callsMade {p : Port} {id : Int} (run : exec (.getSignature p id) s = .next t) :
    ∃ n, CallsMade n s t ∧
      if id < 1 ∨ 7 < id then n = 0
      else if s.answerTo (.write p 0xAF [BitVec.ofInt 8 id]) = .ok [] then n = 2 else n = 1 := by
  simp only [exec, execGetSignature, validSigId_iff_not_outside, ite_not] at run
  split at run <;> cases run
  case isTrue outside => exact ⟨0, .reject s, (if_pos outside).mpr rfl⟩
  case isFalse inside =>
    simp only [if_neg inside]
    exact CallsMade.exists_writeThenCall s p regSig _ (.read p regSig _) fun _ _ => rfl

theorem execSetBrightness_callsMade {p : Port} {v : Byte} (run : exec (.setBrightness p v) s = .next t) :
    CallsMade 1 s t := by
  simp only [exec, execSetBrightness] at run
  split at run <;> cases run
  exact .runSet ..

/-- Settles O51: the session operations by the number of their calls, the scan and the codec functions by the length of
their row. -/
theorem callCounts : Obligations.CallCounts := by
  unfold Obligations.CallCounts
  intro i s t run
  obtain ⟨n, made, n_le⟩ := (exec_within i s t run).callsMade_le
  cases i with
  | getObjects p id m => exact execGetObjects_callsMade run
  | setSignature p sig => exact execSetSignature_callsMade run
  | getSignature p id => exact execGetSignature_callsMade run
  | getBrightness p => cases run; exact ⟨1, CallsMade.runGet .., rfl⟩
  | setBrightness p v => exact ⟨1, execSetBrightness_callsMade run, rfl⟩
  | getWhiteBalanceMode p => cases run; exact ⟨1, CallsMade.runGet .., rfl⟩
  | setWhiteBalanceMode p m => cases run; exact ⟨1, CallsMade.runSet .., rfl⟩
  | setWhiteBalance p c => cases run; exact ⟨1, CallsMade.runSet .., rfl⟩
  | getWhiteBalance p => cases run; exact ⟨1, CallsMade.runGet .., rfl⟩
  | getLedMode p => cases run; exact ⟨1, CallsMade.runGet .., rfl⟩
  | setLedMode p m => cases run; exact ⟨1, CallsMade.runSet .., rfl⟩
  | setLedColor p c => cases run; exact ⟨1, CallsMade.runSet .., rfl⟩
  | getLedColor p => cases run; exact ⟨1, CallsMade.runGet .., rfl⟩
  | findFirstSensor => exact ⟨n, made, n_le.trans_eq List.length_replicate⟩
  | _ => exact ⟨n, made, Nat.le_zero.1 n_le⟩

end Sys2Proof.Machine

/-! PROOF of O34, O36, O37, O38, O40 and O41 (R232, R234, R235, R236, R238, R239). Each of these operations is one `runSet` or
one `runGet`; what such a call leads to when it is answered `ok` or `fail` is said once, and an operation's proof names only
the register and the frame. -/

namespace Sys2Proof.Machine

variable {s : State} {p : Port} {reg : Byte} {o : Host.Outcome State Fault Refusal}

/-! ## One call, by its answer -/

theorem runGet_of_ok {n : Nat} {b : List Byte} (f : List Byte → Result) (ok : s.answerTo (.read p reg n) = .ok b) :
    runGet p reg n f s = s.ended [.check, .t1, .done] [.read p reg n (some b)] (.ok (f b)) := by
  obtain ⟨b', h, run⟩ | ⟨e, h, -⟩ | ⟨h, -⟩ := runGet_cases s p reg n f <;> rw [ok] at h <;> cases h
  exact run

theorem runGet_of_fail {n : Nat} {e : TransportError} (f : List Byte → Result)
    (fail : s.answerTo (.read p reg n) = .fail e) :
    runGet p reg n f s = s.ended [.check, .t1, .done] [.read p reg n none] (.transportFail e) := by
  obtain ⟨b, h, -⟩ | ⟨e', h, run⟩ | ⟨h, -⟩ := runGet_cases s p reg n f <;> rw [fail] at h <;> cases h
  exact run

theorem runSet_of_ok {f b : List Byte} (ok : s.answerTo (.write p reg f) = .ok b) :
    runSet p reg f s = { s.ended [.check, .t1, .done] [.write p reg f] (.ok .nothing) with
      memory := memoryAfter s.double s.memory (.write p reg f) (.ok b) } := by
  obtain ⟨b', h, run⟩ | ⟨e, h, -⟩ | ⟨h, -⟩ := oneWrite_cases s p reg f (.ok .nothing) <;> rw [ok] at h <;> cases h
  exact run

theorem runSet_of_fail {f : List Byte} {e : TransportError} (fail : s.answerTo (.write p reg f) = .fail e) :
    runSet p reg f s = s.ended [.check, .t1, .done] [.write p reg f] (.transportFail e) := by
  obtain ⟨b, h, -⟩ | ⟨e', h, run⟩ | ⟨h, -⟩ := oneWrite_cases s p reg f (.ok .nothing) <;> rw [fail] at h <;> cases h
  exact run

/-- An operation that comes to one `runSet` of the frame `f` ends OK or with the transport's error (R230). -/
theorem outcomes_of_eq_runSet {f : List Byte} (run : o = .next (runSet p reg f s)) :
    (s.answerTo (.write p reg f) = .ok [] →
      o = .next { s.ended [.check, .t1, .done] [.write p reg f] (.ok .nothing) with
        memory := memoryAfter s.double s.memory (.write p reg f) (.ok []) }) ∧
    (∀ e, s.answerTo (.write p reg f) = .fail e →
      o = .next (s.ended [.check, .t1, .done] [.write p reg f] (.transportFail e))) :=
  ⟨fun ok => by rw [run, runSet_of_ok ok], fun _ fail => by rw [run, runSet_of_fail fail]⟩

/-! ## The call each operation comes to -/

theorem exec_setBrightness_of_le {v : Byte} (h : v.toNat ≤ 100) :
    exec (.setBrightness p v) s = .next (runSet p 0xE2 [v] s) := if_pos h

theorem exec_setBrightness_of_gt {v : Byte} (h : 100 < v.toNat) :
    exec (.setBrightness p v) s = .refused .brightnessOverRange := if_neg h.not_ge

theorem exec_setWhiteBalanceMode (m : WhiteBalanceMode) :
    exec (.setWhiteBalanceMode p m) s = .next (runSet p 0xE3 [wbCodeOf s.wbCode m] s) := rfl

theorem exec_setWhiteBalance (c : RgbColor) :
    exec (.setWhiteBalance p c) s = .next (runSet p 0xE3 [s.wbCode.manual, c.red, c.green, c.blue] s) := rfl

theorem exec_getWhiteBalance :
    exec (.getWhiteBalance p) s = .next (runGet p 0xE4 3 (fun b => .color (decodeWbRgb b)) s) := rfl

theorem exec_setLedMode (m : LedMode) :
    exec (.setLedMode p m) s = .next (runSet p 0xEB [ledCodeOf s.ledCode m] s) := rfl

theorem exec_setLedColor (c : RgbColor) :
    exec (.setLedColor p c) s =
      .next (runSet p 0xE7 [clampBrightness c.brightness, c.red, c.green, c.blue, s.ledCode.manual] s) := rfl

/-! ## The frames -/

/-- R236: the three channels in order; the brightness is 0 whatever the sensor answers. -/
theorem decodeWbRgb_channels (r g b : Byte) :
    decodeWbRgb [r, g, b] = { red := r, green := g, blue := b, brightness := 0 } := rfl

/-- R184: the clamped byte is the one whose value is the minimum. -/
theorem eq_clampBrightness {v b : Byte} (h : v.toNat = min b.toNat 100) : v = clampBrightness b :=
  BitVec.eq_of_toNat_eq (h.trans (clampBrightness_toNat b).symm)

/-! ## The obligations -/

/-- Settles O34: up to 100 the operation is one write of the byte, above it the operand check refuses. -/
theorem setBrightnessWritesTheByte : Obligations.SetBrightnessWritesTheByte := by
  unfold Obligations.SetBrightnessWritesTheByte
  intro s port v
  exact ⟨fun h => outcomes_of_eq_runSet (exec_setBrightness_of_le h), exec_setBrightness_of_gt⟩

/-- Settles O36: the byte named by the statement is `wbCodeOf` of the member. -/
theorem setWhiteBalanceModeWritesItsCode : Obligations.SetWhiteBalanceModeWritesItsCode := by
  unfold Obligations.SetWhiteBalanceModeWritesItsCode
  intro s port m b hb
  have code : b = wbCodeOf s.wbCode m := by cases m <;> exact hb
  rw [code]
  exact outcomes_of_eq_runSet (exec_setWhiteBalanceMode m)

/-- Settles O37: the frame WBSET holds the manual tag and the channels, and no brightness. -/
theorem setWhiteBalanceWritesTagAndChannels : Obligations.SetWhiteBalanceWritesTagAndChannels := by
  unfold Obligations.SetWhiteBalanceWritesTagAndChannels
  rintro s port c _ rfl
  exact outcomes_of_eq_runSet (exec_setWhiteBalance c)

/-- Settles O38: three bytes answered are decoded to the channels, a failure is passed on. -/
theorem getWhiteBalanceReadsThreeChannels : Obligations.GetWhiteBalanceReadsThreeChannels := by
  unfold Obligations.GetWhiteBalanceReadsThreeChannels
  intro s port
  constructor
  · intro r g b ok
    rw [exec_getWhiteBalance, runGet_of_ok _ ok, decodeWbRgb_channels]
  · intro e fail
    rw [exec_getWhiteBalance, runGet_of_fail _ fail]

/-- Settles O40: the byte named by the statement is `ledCodeOf` of the member. -/
theorem setLedModeWritesItsCode : Obligations.SetLedModeWritesItsCode := by
  unfold Obligations.SetLedModeWritesItsCode
  intro s port m b hb
  have code : b = ledCodeOf s.ledCode m := by cases m <;> exact hb
  rw [code]
  exact outcomes_of_eq_runSet (exec_setLedMode m)

/-- Settles O41: the first byte of the frame LEDSET is the clamped brightness, fixed by its value. -/
theorem setLedColorClampsBrightness : Obligations.SetLedColorClampsBrightness := by
  unfold Obligations.SetLedColorClampsBrightness
  rintro s port c v _ hv rfl
  rw [eq_clampBrightness hv]
  exact outcomes_of_eq_runSet (exec_setLedColor c)

end Sys2Proof.Machine

/-! PROOF of O50 (`Obligations.RejectedExactlyWhenListed`, R281). A listed operand meets its operation's check, which answers at
once. Past the check every response delivered is an OK or the transport's error, so no operation off the list is answered
REJECTED. -/

namespace Sys2Proof.Machine

variable {s t : State}

/-! ## The operands that are rejected -/

theorem exec_packObjectRequest_of_nonpos {id : Word16} (h : id.toInt ≤ 0) :
    exec (.packObjectRequest id) s = .next (s.respond .rejected) := by
  simp only [exec, execPackObjectRequest, packObjectRequest_of_nonpos h]

theorem exec_getObjects_of_nonpos {p : Port} {id : Word16} {m : Nat} (h : id.toInt ≤ 0) :
    exec (.getObjects p id m) s = .next (s.ended [.check, .done] [] .rejected) := by
  simp only [exec, execGetObjects, packObjectRequest_of_nonpos h, reject_eq_ended]

theorem exec_setSignature_of_outside {p : Port} {sig : HostSignature} (h : sig.id < 1 ∨ 7 < sig.id) :
    exec (.setSignature p sig) s = .next (s.ended [.check, .done] [] .rejected) := by
  simp only [exec, execSetSignature, validSigId_iff_not_outside, h, not_true, if_false, reject_eq_ended]

theorem exec_getSignature_of_outside {p : Port} {id : Int} (h : id < 1 ∨ 7 < id) :
    exec (.getSignature p id) s = .next (s.ended [.check, .done] [] .rejected) := by
  simp only [exec, execGetSignature, validSigId_iff_not_outside, h, not_true, if_false, reject_eq_ended]

/-! ## Runs that are not answered REJECTED -/

/-- From `s` to `t` no response delivered is `REJECTED`. -/
def NotRejected (s t : State) : Prop := ∃ rs : List Response, t.responses = s.responses ++ rs ∧ .rejected ∉ rs

namespace NotRejected

variable {k : Phase} {c : Call} {next : List Byte → State → State}

theorem of_responses_eq (h : t.responses = s.responses) : NotRejected s t := ⟨[], by simp [h], by simp⟩

theorem of_responses_append {r : Response} (h : t.responses = s.responses ++ [r]) (hr : .rejected ≠ r) :
    NotRejected s t :=
  ⟨[r], h, by simpa using hr⟩

theorem responses_ne (h : NotRejected s t) : t.responses ≠ s.responses ++ [.rejected] := by
  obtain ⟨rs, ht, hrs⟩ := h
  intro rejected
  have delivered : rs = [.rejected] := List.append_cancel_left (ht.symm.trans rejected)
  simp [delivered] at hrs

theorem ok (x : Result) (h : t.responses = s.responses ++ [.ok x]) : NotRejected s t :=
  of_responses_append h nofun

/-- A failing call is answered `TRANSPORT_FAIL` and one that never returns not at all (R282, U18), so only what follows an `ok`
matters. -/
theorem transact (go : ∀ b u, NotRejected u (next b u)) : NotRejected s (s.transact k c next) := by
  rcases transact_cases s k c next with ⟨b, -, run⟩ | ⟨e, -, run⟩ | ⟨-, run⟩ <;> rw [run]
  · exact go b ((s.enter k).afterCall c (.ok b))
  · exact of_responses_append (r := .transportFail e) rfl nofun
  · exact of_responses_eq rfl

/-! ## The operations' shared shapes -/

theorem oneCall (s : State) (c : Call) (f : List Byte → Result) :
    NotRejected s ((s.enter .check).transact .t1 c fun b u => u.deliver (.ok (f b))) :=
  transact (s := s.enter .check) fun b _ => ok (f b) rfl

theorem twoCalls (s : State) (c d : Call) {fin : List Byte → State → State} (go : ∀ b u, NotRejected u (fin b u)) :
    NotRejected s ((s.enter .check).transact .t1 c fun _ u => u.transact .t2 d fin) :=
  transact (s := s.enter .check) fun _ _ => transact go

theorem runGet (s : State) (p : Port) (reg : Byte) (n : Nat) (f : List Byte → Result) :
    NotRejected s (runGet p reg n f s) :=
  oneCall s (.read p reg n) f

theorem runSet (s : State) (p : Port) (reg : Byte) (f : List Byte) : NotRejected s (runSet p reg f s) :=
  oneCall s (.write p reg f) fun _ => .nothing

theorem runGetObjects (s : State) (p : Port) (id : Word16) (f : List Byte) (n : Nat) :
    NotRejected s (runGetObjects p id f n s) :=
  twoCalls s (.write p regObjId f) (.read p regObjData (recLen * n)) fun b _ =>
    ok (.objects (decodeObjectList b n id)) rfl

/-- The scan rejects nothing: an empty search is an OK (R270, D27). -/
theorem scanPorts (ps : List Port) (k : Nat) (s : State) : NotRejected s (scanPorts ps k s) := by
  induction ps generalizing k s with
  | nil => exact ok (.port none) rfl
  | cons p ps ih =>
    refine transact fun b u => ?_
    by_cases hb : byteAt b 0 = visionType
    · simpa only [if_pos hb] using ok (.port (some p)) rfl
    · simpa only [if_neg hb] using ih (k + 1) u

end NotRejected

/-! ## Outcomes -/

/-- An outcome from `s` whose next state, if there is one, was reached without the response `REJECTED`. -/
def OutcomeNotRejected (s : State) (o : Host.Outcome State Fault Refusal) : Prop := ∀ t, o = .next t → NotRejected s t

namespace OutcomeNotRejected

theorem next (h : NotRejected s t) : OutcomeNotRejected s (.next t) := by
  rintro _ ⟨⟩
  exact h

theorem refused (r : Refusal) : OutcomeNotRejected s (.refused r) := nofun

theorem respond (s : State) (x : Result) : OutcomeNotRejected s (.next (s.respond (.ok x))) := next (.ok x rfl)

theorem ite {c : Prop} [Decidable c] {o p : Host.Outcome State Fault Refusal}
    (pos : OutcomeNotRejected s o) (neg : OutcomeNotRejected s p) : OutcomeNotRejected s (if c then o else p) := by
  by_cases hc : c
  · simpa only [if_pos hc] using pos
  · simpa only [if_neg hc] using neg

end OutcomeNotRejected

/-! ## The accepted operands of the operations that check one -/

theorem execPackObjectRequest_notRejected {id : Word16} (h : ¬id.toInt ≤ 0) :
    OutcomeNotRejected s (execPackObjectRequest id s) := by
  simp only [execPackObjectRequest, packObjectRequest_of_pos h]
  exact .respond s _

theorem execGetObjects_notRejected {p : Port} {id : Word16} {m : Nat} (h : ¬id.toInt ≤ 0) :
    OutcomeNotRejected s (execGetObjects p id m s) := by
  simp only [execGetObjects, packObjectRequest_of_pos h]
  exact .ite (.refused _) (.next (.runGetObjects s ..))

theorem execSetSignature_notRejected {p : Port} {sig : HostSignature} (h : ¬(sig.id < 1 ∨ 7 < sig.id)) :
    OutcomeNotRejected s (execSetSignature p sig s) := by
  simp only [execSetSignature, if_pos ((validSigId_iff_not_outside sig.id).2 h)]
  exact .next (.oneCall s _ fun _ => .flag true)

theorem execGetSignature_notRejected {p : Port} {id : Int} (h : ¬(id < 1 ∨ 7 < id)) :
    OutcomeNotRejected s (execGetSignature p id s) := by
  simp only [execGetSignature, if_pos ((validSigId_iff_not_outside id).2 h)]
  exact .next (.twoCalls s _ _ fun b _ => .ok (.signature (decodeSignaturePayload b (narrowId id))) rfl)

/-- No operation off R281's list is answered `REJECTED`. -/
theorem exec_notRejected {i : Instr} (h : rejects i = false) (s : State) : OutcomeNotRejected s (exec i s) := by
  cases i with
  | pack32le v => exact .respond s _
  | unpack32le b => exact .ite (.respond s _) (.refused _)
  | packObjectRequest id => exact execPackObjectRequest_notRejected (of_decide_eq_false h)
  | decodeObjectList b m id => exact .ite (.next (.ok (.objects (decodeObjectList b m id)) rfl)) (.refused _)
  | encodeSignature sig => exact .respond s _
  | decodeSignature b => exact .ite (.respond s _) (.refused _)
  | encodeSignatureSelect id => exact .respond s _
  | decodeSignaturePayload b id => exact .ite (.respond s _) (.refused _)
  | encodeByte v => exact .respond s _
  | decodeByte b => exact .ite (.respond s _) (.refused _)
  | encodeWbSet c => exact .respond s _
  | decodeWbRgb b => exact .ite (.respond s _) (.refused _)
  | encodeLedSet c => exact .respond s _
  | decodeLedGet b => exact .ite (.respond s _) (.refused _)
  | encodeWbMode m => exact .respond s _
  | decodeWbMode b => exact .ite (.respond s _) (.refused _)
  | encodeLedMode m => exact .respond s _
  | decodeLedMode b => exact .ite (.respond s _) (.refused _)
  | getObjects p id m => exact execGetObjects_notRejected (of_decide_eq_false h)
  | setSignature p sig => exact execSetSignature_notRejected (of_decide_eq_false h)
  | getSignature p id => exact execGetSignature_notRejected (of_decide_eq_false h)
  | getBrightness p => exact .next (.runGet s ..)
  | setBrightness p v => exact .ite (.next (.runSet s ..)) (.refused _)
  | getWhiteBalanceMode p => exact .next (.runGet s ..)
  | setWhiteBalanceMode p m => exact .next (.runSet s ..)
  | setWhiteBalance p c => exact .next (.runSet s ..)
  | getWhiteBalance p => exact .next (.runGet s ..)
  | getLedMode p => exact .next (.runGet s ..)
  | setLedMode p m => exact .next (.runSet s ..)
  | setLedColor p c => exact .next (.runSet s ..)
  | getLedColor p => exact .next (.runGet s ..)
  | findFirstSensor => exact .next (.scanPorts s.ports 0 s)

/-- Settles O50: a listed operand is rejected by its operation's check; off the list no response is `REJECTED`. -/
theorem rejectedExactlyWhenListed : Obligations.RejectedExactlyWhenListed := by
  unfold Obligations.RejectedExactlyWhenListed
  intro i s
  constructor
  · intro listed
    cases i with
    | packObjectRequest id => exact exec_packObjectRequest_of_nonpos (of_decide_eq_true listed)
    | getObjects p id m => exact exec_getObjects_of_nonpos (of_decide_eq_true listed)
    | setSignature p sig => exact exec_setSignature_of_outside (of_decide_eq_true listed)
    | getSignature p id => exact exec_getSignature_of_outside (of_decide_eq_true listed)
    | _ => exact absurd listed Bool.false_ne_true
  · intro t run rejected
    by_contra unlisted
    exact (exec_notRejected (Bool.eq_false_of_not_eq_true unlisted) s t run).responses_ne rejected

end Sys2Proof.Machine

/-! PROOF of O1, O2, O3, O4, O5, O6 and O7 (request images, descriptors, steps). The decoder reads an operation's operands
field by field (`Laws/Image.lean`), so the round trip is one lemma over the operations, `takeOperands_operandBytes`; what the
decoder answers is well-formed because `takeBytes` answers the length it was asked for. -/

namespace Sys2Proof

open Sys2Proof.Machine

/-! ## The operands read back -/

/-- The operands of a well-formed operation are read back from its bytes, whatever follows them. -/
theorem takeOperands_operandBytes {i : Instr} (wf : i.wellFormed = true) (rest : List Byte) :
    takeOperands i.op (i.operandBytes ++ rest) = .ok (i, rest) := by
  cases i
  case unpack32le | decodeSignature | decodeByte | decodeWbRgb | decodeLedGet | decodeWbMode | decodeLedMode =>
    simp [takeOperands, Instr.op, Instr.operandBytes, takeBytes_append rest (eq_of_beq wf), bind, Except.bind, pure,
      Except.pure]
  case decodeSignaturePayload b id =>
    simp [takeOperands, Instr.op, Instr.operandBytes, takeBytes_append (id :: rest) (eq_of_beq wf), takeByte, bind,
      Except.bind, pure, Except.pure]
  case decodeObjectList b m id =>
    simp [takeOperands, Instr.op, Instr.operandBytes, takeBytes_append _ (Eq.refl b.length), List.append_assoc, bind,
      Except.bind, pure, Except.pure]
  all_goals
    simp [takeOperands, Instr.op, Instr.operandBytes, List.append_assoc, takeByte, bind, Except.bind, pure, Except.pure]

/-- Settles O1: the descriptor selects the operation, its operands are read back, and the padding is zero. -/
theorem requestImageRoundTrip : Obligations.RequestImageRoundTrip := by
  unfold Obligations.RequestImageRoundTrip
  intro i n wf
  have padding : (List.replicate n (0 : Byte)).all (· == 0) = true := by simp
  simp [decode, encode, List.append_assoc, takeDesc_descBytes, opOfDesc_desc, takeOperands_operandBytes wf, bind,
    Except.bind, pure, Except.pure]

/-! ## What the decoder answers -/

/-- Every value a decoder answers has the property `P`. -/
def Answers {ε α : Type} (P : α → Prop) (x : Except ε α) : Prop := ∀ a, x = .ok a → P a

theorem Answers.bind {ε α β : Type} {P : β → Prop} {x : Except ε α} {f : α → Except ε β}
    (h : ∀ a, x = .ok a → Answers P (f a)) : Answers P (x >>= f) := by
  cases x with
  | error e => nofun
  | ok a => exact h a rfl

theorem Answers.ok {ε α : Type} {P : α → Prop} {a : α} (h : P a) : Answers (ε := ε) P (.ok a) := by
  rintro _ ⟨⟩
  exact h

/-- A frame read as `n` bytes has `n` bytes, so an operation with this frame alone is well-formed. -/
theorem Answers.frame {n : Nat} {bs : List Byte} {f : List Byte → Instr}
    (h : ∀ b, (f b).wellFormed = (b.length == n)) :
    Answers (·.1.wellFormed = true) (takeBytes n bs >>= fun x => pure (f x.1, x.2)) :=
  .bind fun x hx => .ok ((h x.1).trans (beq_of_eq (takeBytes_length hx)))

/-- Whatever operands are read make a well-formed operation: only a frame of fixed length has a condition to meet. -/
theorem takeOperands_wellFormed (op : Op) (bs : List Byte) :
    Answers (·.1.wellFormed = true) (takeOperands op bs) := by
  cases op
  case unpack32le | decodeSignature | decodeByte | decodeWbRgb | decodeLedGet | decodeWbMode | decodeLedMode =>
    exact .frame fun _ => rfl
  case decodeSignaturePayload =>
    exact .bind fun _ read => .bind fun _ _ => .ok (beq_of_eq (takeBytes_length read))
  case findFirstSensor => exact .ok rfl
  case pack32le | packObjectRequest | encodeSignatureSelect | encodeByte | encodeWbSet | encodeLedSet | encodeWbMode
      | encodeLedMode | getBrightness | getWhiteBalanceMode | getWhiteBalance | getLedMode | getLedColor =>
    exact .bind fun _ _ => .ok rfl
  case encodeSignature | getSignature | setBrightness | setWhiteBalanceMode | setWhiteBalance | setLedMode | setLedColor =>
    exact .bind fun _ _ => .bind fun _ _ => .ok rfl
  case getObjects | setSignature => exact .bind fun _ _ => .bind fun _ _ => .bind fun _ _ => .ok rfl
  case decodeObjectList => exact .bind fun _ _ => .bind fun _ _ => .bind fun _ _ => .bind fun _ _ => .ok rfl

/-- Settles O2: the decoder only passes on what `takeOperands` answers. -/
theorem decodedRequestsAreWellFormed : Obligations.DecodedRequestsAreWellFormed := by
  unfold Obligations.DecodedRequestsAreWellFormed
  intro image
  refine Answers.bind fun _ _ => .bind fun op _ => .bind fun ⟨i, rest⟩ read => ?_
  by_cases padding : rest.all (· == 0) = true
  · simpa only [if_pos padding] using .ok (takeOperands_wellFormed op _ _ read)
  · simpa only [if_neg padding] using nofun

/-! ## Rows -/

/-- Two rows that one descriptor selects agree on the bits that both masks keep. -/
theorem Row.selects_agree {d : BitVec 18} {r r' : Row} (h : r.selects d = true) (h' : r'.selects d = true) :
    r.pattern &&& r'.mask = r'.pattern &&& r.mask := by
  rw [← eq_of_beq h, ← eq_of_beq h', BitVec.and_assoc, BitVec.and_assoc, BitVec.and_comm r.mask]

/-- Two rows of the map differ in a bit that both masks keep. -/
theorem rows_disagree : ∀ r ∈ rows, ∀ r' ∈ rows, r.pattern &&& r'.mask = r'.pattern &&& r.mask → r = r' := by
  decide

/-- Settles O3: rows that agree on the bits both masks keep are one row. -/
theorem descriptorSelectsOneRow : Obligations.DescriptorSelectsOneRow := by
  unfold Obligations.DescriptorSelectsOneRow
  intro d r r' hr hr' h h'
  exact rows_disagree r hr r' hr' (Row.selects_agree h h')

/-- Settles O4: each image read by the decoder. -/
theorem tableWordsDecode : Obligations.TableWordsDecode := by
  unfold Obligations.TableWordsDecode
  decide

/-- The descriptor word with a kind, a register address and a byte count (R91). -/
def shapeDesc (c : Nat × Byte × Nat) : BitVec 18 := BitVec.ofNat 2 c.1 ++ c.2.1 ++ BitVec.ofNat 8 c.2.2

/-- An operation's first call on the operation map has the descriptor of the operation's row. -/
theorem mapCalls_head_selects {n : Nat} {i : Instr} {c : Nat × Byte × Nat} {cs : List (Nat × Byte × Nat)}
    (first : mapCalls n i = c :: cs) : ∃ r ∈ sessionRows, r.op = i.op ∧ r.selects (shapeDesc c) = true := by
  cases i
  case findFirstSensor =>
    have scan : c ∈ mapCalls n .findFirstSensor := first ▸ List.mem_cons_self
    rw [List.eq_of_mem_replicate scan]
    decide
  case getObjects | setSignature | getSignature | getBrightness | setBrightness | getWhiteBalanceMode
      | setWhiteBalanceMode | setWhiteBalance | getWhiteBalance | getLedMode | setLedMode | setLedColor | getLedColor =>
    cases first
    simp only [Instr.op]
    decide
  all_goals cases first

/-- Settles O5: the calls made are a front part of the operation's row (`exec_within`), so the first call is the row's first,
and an event's descriptor is that of its shape. -/
theorem firstCallSelectsItsRow : Obligations.FirstCallSelectsItsRow := by
  unfold Obligations.FirstCallSelectsItsRow
  intro i s t e es run grown
  obtain ⟨es', grown', cs, onMap⟩ := exec_within i s t run
  obtain rfl : es' = e :: es := List.append_cancel_left (grown'.symm.trans grown)
  exact mapCalls_head_selects onMap.symm

/-! ## Steps -/

theorem step_of_decoded {s : State} {r : HostRequest} {rest : List HostRequest} {i : Instr} (idle : s.ph = none)
    (presented : s.requests = r :: rest) (decoded : decode r.image = .ok i) :
    step s = exec i { s with requests := rest, target := r.array } := by
  simp only [step, idle, State.takeRequest, presented, decoded, decodedRequestsAreWellFormed _ _ decoded, if_true]

theorem step_of_not_decoded {s : State} {r : HostRequest} {rest : List HostRequest} {e : DecodeError}
    (idle : s.ph = none) (presented : s.requests = r :: rest) (refused : decode r.image = .error e) :
    step s = .refused (.undecodedRequest e) := by
  simp only [step, idle, State.takeRequest, presented, refused]

theorem step_of_idle {s : State} (idle : s.ph = none) (empty : s.requests = []) : step s = .next s := by
  simp only [step, idle, State.takeRequest, empty]

theorem step_of_stuck {s : State} {k : Phase} (stuck : s.ph = some k) : step s = .fault .transportNeverReturns := by
  simp only [step, stuck]

/-- Settles O6: what decodes is well-formed, so the step's own check never stops it. -/
theorem stepRunsTheDecodedRequest : Obligations.StepRunsTheDecodedRequest := by
  unfold Obligations.StepRunsTheDecodedRequest
  intro s r rest i idle presented decoded _
  exact step_of_decoded idle presented decoded

/-- Settles O7: one clause for each way in which a step runs no operation. -/
theorem otherSteps : Obligations.OtherSteps := by
  unfold Obligations.OtherSteps
  exact ⟨fun _ => step_of_idle, fun _ _ => step_of_stuck, fun _ _ _ _ => step_of_not_decoded⟩

end Sys2Proof

/-! PROOF of O54, O55 and O56 (the invariant and reset; R8, R20, R28, R41, R310). Each of the sequencer's operations keeps the
invariant, so every operation does (`exec_keeps`), and a step is an operation on a state that differs in its requests. -/

namespace Sys2Proof.Machine

/-! ## The buffers' bounds -/

/-- The bytes of an `ok` answer are as many as the call asks for. -/
theorem answerTo_ok_length {s : State} {c : Call} {b : List Byte} (h : s.answerTo c = .ok b) : b.length = c.answerLen := by
  have fits := answerTo_fits s c
  rw [h] at fits
  exact eq_of_beq fits

/-- What an answer leaves in the read buffer is no longer than what the call asks for. -/
theorem answerTo_bytes_length_le (s : State) (c : Call) : ((s.answerTo c).bytes?.getD []).length ≤ c.answerLen := by
  cases h : s.answerTo c with
  | ok b => exact (answerTo_ok_length h).le
  | fail e => exact Nat.zero_le _
  | never => exact Nat.zero_le _

/-- No operation sends more than 37 bytes or asks for more than 36 (R28, D1). -/
theorem CallOf.bounds {s : State} {i : Instr} {c : Call} (h : CallOf s i c) : c.sent.length ≤ 37 ∧ c.answerLen ≤ 36 := by
  cases h
  case objectsWrite packed => simp [Call.sent, Call.answerLen, packObjectRequest_length packed]
  case objectsRead => simp only [Call.sent, Call.answerLen, recLen, maxObj, List.length_nil]; omega
  all_goals exact ⟨Nat.le_of_ble_eq_true rfl, Nat.le_of_ble_eq_true rfl⟩

/-! ## What keeps the invariant -/

namespace State.Inv

variable {s : State}

theorem enter (h : s.Inv) (k : Phase) : (s.enter k).Inv := { h with idle := nofun }

theorem afterCall {c : Call} (h : s.Inv) (k : Phase) (bounds : c.sent.length ≤ 37 ∧ c.answerLen ≤ 36) :
    ((s.enter k).afterCall c (s.answerTo c)).Inv :=
  { h with
    memory := memoryAfter_wf _ _ _ _ h.memory
    txLength := bounds.1
    rxLength := (answerTo_bytes_length_le s c).trans bounds.2
    idle := nofun }

theorem deliver (h : s.Inv) (r : Response) : (s.deliver r).Inv :=
  { h with txLength := Nat.zero_le _, rxLength := Nat.zero_le _, idle := fun _ => ⟨rfl, rfl⟩ }

theorem respond (h : s.Inv) (r : Response) : (s.respond r).Inv := { h with }

theorem fillArray (h : s.Inv) (rs : List ObjectReading) : (s.fillArray rs).Inv :=
  { h with arrays := writeArray_wf _ _ _ h.arrays }

theorem exec {i : Instr} {t : State} (h : s.Inv) (run : Machine.exec i s = .next t) : t.Inv :=
  exec_keeps h (fun _ k hu => hu.enter k) (fun _ k _ made hu => hu.afterCall k made.bounds) (fun _ r hu => hu.deliver r)
    h.respond (fun _ rs hu => hu.fillArray rs) (fun r rs => (h.fillArray rs).respond r) run

end State.Inv

/-- What a step with a next state can be: idling, or the presented request decoded and run. -/
theorem step_next_cases {s t : State} (h : step s = .next t) :
    (s.requests = [] ∧ t = s) ∨
    ∃ r rest i, s.requests = r :: rest ∧ decode r.image = .ok i ∧
      exec i { s with requests := rest, target := r.array } = .next t := by
  obtain idle | ⟨k, stuck⟩ := Option.eq_none_or_eq_some s.ph
  · cases presented : s.requests with
    | nil =>
      rw [step_of_idle idle presented] at h
      cases h
      exact .inl ⟨rfl, rfl⟩
    | cons r rest =>
      cases decoded : decode r.image with
      | error e =>
        rw [step_of_not_decoded idle presented decoded] at h
        cases h
      | ok i =>
        rw [step_of_decoded idle presented decoded] at h
        exact .inr ⟨r, rest, i, rfl, decoded, h⟩
  · rw [step_of_stuck stuck] at h
    cases h

/-- Settles O54: the requests and the array named have no part in the invariant, and the operation run keeps it. -/
theorem stepKeepsTheInvariant : Obligations.StepKeepsTheInvariant := by
  unfold Obligations.StepKeepsTheInvariant
  intro s t inv h
  obtain ⟨-, rfl⟩ | ⟨r, rest, i, -, -, run⟩ := step_next_cases h
  · exact inv
  · exact State.Inv.exec (s := { s with requests := rest, target := r.array }) { inv with } run

/-- Settles O55: PORTS has its duplicates removed, the default codes are distinct, and the rest is empty. -/
theorem resetMeetsTheInvariant : Obligations.ResetMeetsTheInvariant := by
  unfold Obligations.ResetMeetsTheInvariant
  exact
    { memory := reset_memory_wf
      arrays := reset_arrays_wf
      ports := List.nodup_dedup _
      wbCode := by decide
      ledCode := by decide
      txLength := Nat.zero_le _
      rxLength := Nat.zero_le _
      idle := fun _ => ⟨rfl, rfl⟩ }

/-- Settles O56: the named fields of the reset state, and the fields `abandon` leaves alone. -/
theorem resetAbandonsTheOperation : Obligations.ResetAbandonsTheOperation := by
  unfold Obligations.ResetAbandonsTheOperation
  refine ⟨⟨rfl, rfl, rfl, rfl⟩, fun s => ?_⟩
  exact ⟨s.abandon_ph, s.abandon_responses, s.abandon_trace, s.abandon_arrays, s.abandon_memory⟩

end Sys2Proof.Machine

/-! PROOF of O8, O10, O12, O21, O22, O23, O24 and O25 (the transport contract, R51 to R53, and the codec functions of one step:
R121, R140, R180 to R190). The arithmetic of each is in `Laws/Operands.lean`; here stand the frames and the operand checks. -/

namespace Sys2Proof.Machine

variable {s : State}

/-- Settles O8: an answer's bytes are as many as its call asks for, and a write asks for none. -/
theorem transportAnswersFitTheCall : Obligations.TransportAnswersFitTheCall := by
  unfold Obligations.TransportAnswersFitTheCall
  intro s port reg b
  exact ⟨fun _ => answerTo_ok_length, answerTo_ok_length, fun _ => answerTo_write_ok⟩

/-! ## Words -/

theorem unpack32le_toNat (b0 b1 b2 b3 : Byte) :
    (unpack32le [b0, b1, b2, b3]).toNat = b0.toNat + 2 ^ 8 * b1.toNat + 2 ^ 16 * b2.toNat + 2 ^ 24 * b3.toNat :=
  join4_toNat b0 b1 b2 b3

/-- The `i32` reading of a pattern: bit 31 counts as less 2^32 (R10). -/
theorem toInt_of_word32 (v : Word32) : v.toInt = if v.toNat < 2 ^ 31 then (v.toNat : Int) else v.toNat - 2 ^ 32 := by
  rw [BitVec.toInt_eq_toNat_cond]
  split <;> split <;> omega

/-- Settles O10: four bytes pass the length check, and `unpack32le` joins them. -/
theorem unpackReadsTwosComplement : Obligations.UnpackReadsTwosComplement := by
  unfold Obligations.UnpackReadsTwosComplement
  intro b0 b1 b2 b3 s
  exact ⟨unpack32le [b0, b1, b2, b3], rfl, unpack32le_toNat b0 b1 b2 b3, toInt_of_word32 _⟩

/-! ## Object requests -/

theorem exec_packObjectRequest_of_pos {id : Word16} (h : 0 < id.toInt) :
    exec (.packObjectRequest id) s =
      .next (s.respond (.ok (.frame [id.extractLsb' 0 8, id.extractLsb' 8 8]))) := by
  simp only [exec, execPackObjectRequest, packObjectRequest_of_pos h.not_ge]

/-- A positive id is the sum of its two bytes, and the sign bit, bit 7 of the high byte, is clear. -/
theorem bytes_of_positive_word16 {id : Word16} (h : 0 < id.toInt) :
    id.toInt = (id.extractLsb' 0 8).toNat + 256 * (id.extractLsb' 8 8).toNat ∧ (id.extractLsb' 8 8).toNat < 128 := by
  have below := id.isLt
  rw [BitVec.toInt_eq_toNat_cond] at h ⊢
  simp only [BitVec.extractLsb'_toNat, Nat.shiftRight_eq_div_pow]
  split at h <;> omega

/-- Settles O12: the id's sign decides between REJECTED and its two bytes. -/
theorem objectRequestPackedOrRejected : Obligations.ObjectRequestPackedOrRejected := by
  unfold Obligations.ObjectRequestPackedOrRejected
  intro id s
  refine ⟨exec_packObjectRequest_of_nonpos, fun h => ?_⟩
  exact ⟨id.extractLsb' 0 8, id.extractLsb' 8 8, exec_packObjectRequest_of_pos h, bytes_of_positive_word16 h⟩

/-! ## Colours -/

/-- Settles O21: the frames WBSET and WBRGB, byte for byte. -/
theorem whiteBalanceColourFrames : Obligations.WhiteBalanceColourFrames := by
  unfold Obligations.WhiteBalanceColourFrames
  exact ⟨fun _ _ => rfl, fun _ _ _ _ => rfl⟩

/-- Settles O22: the frame LEDSET begins with the clamped brightness, LEDGET with the brightness as it is. -/
theorem ledColourFrames : Obligations.LedColourFrames := by
  unfold Obligations.LedColourFrames
  exact ⟨fun c _ => ⟨clampBrightness c.brightness, clampBrightness_toNat _, rfl⟩, fun _ _ _ _ _ => rfl⟩

/-! ## Modes -/

/-- Settles O23: the frame of each member is its code. -/
theorem modesEncodedByTheirCodes : Obligations.ModesEncodedByTheirCodes := by
  unfold Obligations.ModesEncodedByTheirCodes
  exact fun _ => ⟨rfl, rfl, rfl, rfl, rfl⟩

/-- With injective codes a byte is decoded to the one member whose code it is (R187). -/
theorem wbModeOf_eq_some_iff {c : WbCode} (inj : WbCode.injective c = true) (raw : Byte) (m : WhiteBalanceMode) :
    wbModeOf c raw = some m ↔ wbCodeOf c m = raw := by
  simp only [WbCode.injective, Bool.and_eq_true, bne_iff_ne] at inj
  obtain ⟨⟨normal_start, normal_manual⟩, start_manual⟩ := inj
  unfold wbModeOf
  cases m <;> grind [wbCodeOf]

/-- With injective codes a byte is decoded to the one member whose code it is (R189). -/
theorem ledModeOf_eq_some_iff {c : LedCode} (inj : LedCode.injective c = true) (raw : Byte) (m : LedMode) :
    ledModeOf c raw = some m ↔ ledCodeOf c m = raw := by
  have auto_manual : c.auto ≠ c.manual := bne_iff_ne.1 inj
  unfold ledModeOf
  cases m <;> grind [ledCodeOf]

/-- Settles O24: the raw byte is passed on beside the member it is decoded to. -/
theorem modeBytesDecodedToTheirMember : Obligations.ModeBytesDecodedToTheirMember := by
  unfold Obligations.ModeBytesDecodedToTheirMember
  constructor
  · exact fun raw s inj => ⟨wbModeOf s.wbCode raw, rfl, wbModeOf_eq_some_iff inj raw⟩
  · exact fun raw s inj => ⟨ledModeOf s.ledCode raw, rfl, ledModeOf_eq_some_iff inj raw⟩

/-! ## Refusals -/

/-- `maxCount = 0` is looked at only after the id is accepted (R201, U2). -/
theorem exec_getObjects_of_zero {p : Port} {id : Word16} (h : 0 < id.toInt) :
    exec (.getObjects p id 0) s = .refused .zeroMaxCount := by
  simp only [exec, execGetObjects, packObjectRequest_of_pos h.not_ge, if_true]

/-- Settles O25: each operand fails its operation's own check. -/
theorem undefinedOperandsRefused : Obligations.UndefinedOperandsRefused := by
  unfold Obligations.UndefinedOperandsRefused
  intro s port b n id v
  refine ⟨fun short => if_neg short.not_ge, exec_getObjects_of_zero, fun h => ⟨if_neg h, if_neg h⟩, fun h => if_neg h,
    fun h => if_neg h, fun h => if_neg h, fun h => ⟨if_neg h, if_neg h, if_neg h⟩⟩

end Sys2Proof.Machine

/-! PROOF of O13 (`Obligations.ObjectListDecoded`, R141 to R143). Induction on `maxCount`: past the first record the decoder
runs on the buffer without its first six bytes, so record `k + 1` of the one is record `k` of the other. -/

namespace Sys2Proof.Machine

/-- `r` is record `k` of the buffer, decoded (R143). -/
structure ReadsRecord (buffer : List Byte) (id : Word16) (k : Nat) (r : ObjectReading) : Prop where
  led : buffer.getD (6 * k) 0 ≠ 0xFF
  signatureId : r.signatureId = id
  x : r.x.toInt = 2 * (buffer.getD (6 * k) 0).toNat
  y : r.y.toInt = (buffer.getD (6 * k + 1) 0).toNat
  width : r.width.toInt = 2 * (buffer.getD (6 * k + 2) 0).toNat
  height : r.height.toInt = (buffer.getD (6 * k + 3) 0).toNat
  angle : r.angle.toNat = (buffer.getD (6 * k + 4) 0).toNat + 256 * (buffer.getD (6 * k + 5) 0).toNat

variable {buffer : List Byte} {id : Word16}

/-- Byte `j` of record `k + 1` is byte `j` of record `k` behind the first record. -/
theorem getD_drop_record (buffer : List Byte) (k j : Nat) :
    (buffer.drop recLen).getD (6 * k + j) 0 = buffer.getD (6 * (k + 1) + j) 0 := by
  simp only [List.getD_eq_getElem?_getD, List.getElem?_drop, recLen]
  congr 2
  omega

theorem byteAt_take_record {j : Nat} (hj : j < 6) : byteAt (buffer.take recLen) j = buffer.getD j 0 := by
  simp [byteAt, recLen, hj]

theorem ReadsRecord.of_drop {k : Nat} {r : ObjectReading} (h : ReadsRecord (buffer.drop recLen) id k r) :
    ReadsRecord buffer id (k + 1) r := by
  have shift := getD_drop_record buffer k
  obtain ⟨led, signatureId, x, y, width, height, angle⟩ := h
  rw [← Nat.add_zero (6 * k), shift] at led x
  rw [shift] at y width height
  rw [shift, shift] at angle
  exact ⟨led, signatureId, x, y, width, height, angle⟩

/-- The first record, decoded. -/
theorem readsRecord_decodeRecord (led : byteAt buffer 0 ≠ sentinel) :
    ReadsRecord buffer id 0 (decodeRecord (buffer.take recLen) id) where
  led := led
  signatureId := rfl
  x := by simp only [decodeRecord, doubled_toInt, byteAt_take_record (show 0 < 6 by decide), Nat.mul_zero]
  y := by simp only [decodeRecord, widened_toInt, byteAt_take_record (show 1 < 6 by decide), Nat.mul_zero, Nat.zero_add]
  width := by
    simp only [decodeRecord, doubled_toInt, byteAt_take_record (show 2 < 6 by decide), Nat.mul_zero, Nat.zero_add]
  height := by
    simp only [decodeRecord, widened_toInt, byteAt_take_record (show 3 < 6 by decide), Nat.mul_zero, Nat.zero_add]
  angle := by
    simp only [decodeRecord, byteAt_take_record (show 4 < 6 by decide), byteAt_take_record (show 5 < 6 by decide),
      Nat.mul_zero, Nat.zero_add]
    exact join2_toNat _ _

/-- At most `maxCount` objects, object `k` being record `k`; when there are fewer, the next record is the sentinel (R141,
R142). -/
theorem decodeObjectList_reads (buffer : List Byte) (maxCount : Nat) (id : Word16) :
    (decodeObjectList buffer maxCount id).length ≤ maxCount ∧
    (∀ (k : Nat) (h : k < (decodeObjectList buffer maxCount id).length),
      ReadsRecord buffer id k (decodeObjectList buffer maxCount id)[k]) ∧
    ((decodeObjectList buffer maxCount id).length < maxCount →
      buffer.getD (6 * (decodeObjectList buffer maxCount id).length) 0 = 0xFF) := by
  induction maxCount generalizing buffer with
  | zero => exact ⟨Nat.le_refl 0, nofun, nofun⟩
  | succ n ih =>
    by_cases last : byteAt buffer 0 = sentinel
    · simp only [decodeObjectList, if_pos last]
      exact ⟨Nat.zero_le _, nofun, fun _ => last⟩
    · obtain ⟨le, reads, ended⟩ := ih (buffer.drop recLen)
      simp only [decodeObjectList, if_neg last, List.length_cons]
      refine ⟨Nat.succ_le_succ le, fun k h => ?_, fun h => ?_⟩
      · cases k with
        | zero => exact readsRecord_decodeRecord last
        | succ k => exact (reads k (Nat.lt_of_succ_lt_succ h)).of_drop
      · rw [← Nat.add_zero (6 * (_ + 1)), ← getD_drop_record]
        exact ended (Nat.lt_of_succ_lt_succ h)

/-- Settles O13: a buffer long enough passes the check, and the list is the one `decodeObjectList` reads. -/
theorem objectListDecoded : Obligations.ObjectListDecoded := by
  unfold Obligations.ObjectListDecoded
  intro buffer maxCount id s long
  obtain ⟨le, reads, ended⟩ := decodeObjectList_reads buffer maxCount id
  refine ⟨_, rfl, if_pos long, le, fun k h => ?_, ended⟩
  obtain ⟨led, signatureId, x, y, width, height, angle⟩ := reads k h
  exact ⟨led, signatureId, x, y, width, height, angle⟩

end Sys2Proof.Machine

/-! PROOF of O15, O16, O17, O18 and O19 (the signature codec, R160 to R165). A frame holds the nine fields that are decoded from
it (`holdsFields_decodeSignature`), and 37 bytes are fixed by their first and the fields they hold (`eq_of_holdsFields`). -/

namespace Sys2Proof.Machine

/-! ## The fields a frame holds -/

/-- The fields of a signature after its `id`, in R83's order. -/
def fieldsOf {ι : Type} (r : SignatureOf ι) : Fin 9 → Word32 :=
  ![r.range, r.uMin, r.uMax, r.uMean, r.vMin, r.vMax, r.vMean, r.mRgb, r.mType]

theorem holdsFields_iff {ι : Type} {f : List Byte} {off : Nat} {r : SignatureOf ι} :
    HoldsFields f off r ↔ ∀ q : Fin 9, HoldsWord f (off + 4 * q) (fieldsOf r q) := by
  simp [HoldsFields, fieldsOf, Fin.forall_fin_succ]

/-- What a frame is decoded to stands in the frame. -/
theorem holdsFields_decodeSignature (b : List Byte) : HoldsFields b 1 (decodeSignature b) :=
  ⟨holdsWord_join32 b 1, holdsWord_join32 b 5, holdsWord_join32 b 9, holdsWord_join32 b 13, holdsWord_join32 b 17,
    holdsWord_join32 b 21, holdsWord_join32 b 25, holdsWord_join32 b 29, holdsWord_join32 b 33⟩

theorem join32_cons (x : Byte) (f : List Byte) (off : Nat) : join32 (x :: f) (off + 1) = join32 f off := rfl

theorem join32_pack32le_append (v : Word32) (f : List Byte) : join32 (pack32le v ++ f) 0 = v := unpack32le_pack32le v

theorem join32_append_of_pack32le (v : Word32) (f : List Byte) (off : Nat) :
    join32 (pack32le v ++ f) (off + 4) = join32 f off := rfl

theorem decodeSignature_encodeSignature (r : ClassifierSignature) : decodeSignature (encodeSignature r) = r := by
  have last : join32 (pack32le r.mType) 0 = r.mType := unpack32le_pack32le _
  simp only [decodeSignature, encodeSignature, List.append_assoc, List.cons_append, List.nil_append, join32_cons,
    join32_pack32le_append, join32_append_of_pack32le, last]
  rfl

theorem encodeSignature_length (r : ClassifierSignature) : (encodeSignature r).length = 37 := rfl

theorem holdsFields_encodeSignature (r : ClassifierSignature) : HoldsFields (encodeSignature r) 1 r := by
  have held := holdsFields_decodeSignature (encodeSignature r)
  rwa [decodeSignature_encodeSignature] at held

/-! ## Frames fixed by what they hold -/

/-- Two frames that hold a word at a place have the same four bytes there. -/
theorem getD_eq_of_holdsWord {f g : List Byte} {off j : Nat} {v : Word32} (hf : HoldsWord f off v)
    (hg : HoldsWord g off v) (hj : j < 4) : f.getD (off + j) 0 = g.getD (off + j) 0 :=
  BitVec.eq_of_toNat_eq ((hf j hj).trans (hg j hj).symm)

/-- A full signature frame is fixed by its first byte and the fields it holds: byte `i` past the first is byte `(i - 1) % 4` of
field `(i - 1) / 4`. -/
theorem eq_of_holdsFields {ι : Type} {f g : List Byte} {r : SignatureOf ι} (hf : f.length = 37) (hg : g.length = 37)
    (first : f.getD 0 0 = g.getD 0 0) (f_holds : HoldsFields f 1 r) (g_holds : HoldsFields g 1 r) : f = g := by
  have bytes : ∀ i < 37, f.getD i 0 = g.getD i 0 := by
    intro i hi
    obtain rfl | ⟨q, j, hj, rfl⟩ : i = 0 ∨ ∃ (q : Fin 9) (j : Nat), j < 4 ∧ i = 1 + 4 * q + j := by
      by_cases h : i = 0
      · exact .inl h
      · exact .inr ⟨⟨(i - 1) / 4, by omega⟩, (i - 1) % 4, by omega, by simp only; omega⟩
    · exact first
    · exact getD_eq_of_holdsWord (holdsFields_iff.1 f_holds q) (holdsFields_iff.1 g_holds q) hj
  refine List.ext_getElem (hf.trans hg.symm) fun i hif hig => ?_
  simpa [hif, hig] using bytes i (hf ▸ hif)

theorem encodeSignature_decodeSignature {b : List Byte} (hb : b.length = 37) : encodeSignature (decodeSignature b) = b :=
  eq_of_holdsFields (encodeSignature_length _) hb rfl (holdsFields_encodeSignature _) (holdsFields_decodeSignature b)

/-- A frame behind a first byte. -/
theorem holdsFields_cons {ι : Type} {x : Byte} {f : List Byte} {off : Nat} {r : SignatureOf ι} :
    HoldsFields (x :: f) (off + 1) r ↔ HoldsFields f off r := by
  have word (off : Nat) (v : Word32) : HoldsWord (x :: f) (off + 1) v ↔ HoldsWord f off v := by
    simp only [HoldsWord, Nat.add_right_comm off 1, List.getD_cons_succ]
  simp only [holdsFields_iff, Nat.add_right_comm off 1, word]

theorem holdsFields_decodeSignaturePayload (b : List Byte) (id : Byte) :
    HoldsFields b 0 (decodeSignaturePayload b id) :=
  holdsFields_cons.1 (holdsFields_decodeSignature (id :: b))

/-! ## The obligations -/

/-- Settles O15: the frame is 37 bytes, the id and the fields. -/
theorem signatureFrameLayout : Obligations.SignatureFrameLayout := by
  unfold Obligations.SignatureFrameLayout
  intro sig s
  exact ⟨encodeSignature sig, rfl, encodeSignature_length sig, rfl, holdsFields_encodeSignature sig⟩

/-- Settles O16: 37 bytes pass the length check, and the fields decoded stand in them. -/
theorem signatureFrameDecoded : Obligations.SignatureFrameDecoded := by
  unfold Obligations.SignatureFrameDecoded
  intro b s hb
  exact ⟨decodeSignature b, if_pos hb, rfl, holdsFields_decodeSignature b⟩

/-- Settles O17: one law for each direction. -/
theorem signatureCodecIsABijection : Obligations.SignatureCodecIsABijection := by
  unfold Obligations.SignatureCodecIsABijection
  exact ⟨decodeSignature_encodeSignature, fun _ => encodeSignature_decodeSignature⟩

/-- Settles O18: a payload is decoded as the frame with the id in front of it. -/
theorem selectAndPayload : Obligations.SelectAndPayload := by
  unfold Obligations.SelectAndPayload
  refine ⟨fun _ _ => rfl, fun b id s hb => ?_⟩
  exact ⟨decodeSignaturePayload b id, if_pos hb, rfl, holdsFields_decodeSignaturePayload b id⟩

/-- Settles O19: the payload is the frame without its first byte. -/
theorem fullFrameIsSelectThenPayload : Obligations.FullFrameIsSelectThenPayload := by
  unfold Obligations.FullFrameIsSelectThenPayload
  intro r
  exact ⟨(encodeSignature r).tail, rfl, rfl, decodeSignature_encodeSignature r⟩

end Sys2Proof.Machine

/-! PROOF of O26 to O33, O35, O39, O42 and O49 (the session operations, R200 to R207, R230 to R240, R296). What the answers make of an operation's calls is said once: of its first call, whatever operation it is, and of two calls
in a row. An operation's proof names its calls and frames. -/

namespace Sys2Proof.Machine

variable {s : State} {i : Instr} {c d : Call} {p : Port}

/-! ## The first call -/

/-- In `s` the operation passes its checks and makes `c` its first call, in phase T1. -/
def FirstCall (s : State) (i : Instr) (c : Call) : Prop :=
  ∃ next : List Byte → State → State, exec i s = .next ((s.enter .check).transact .t1 c next)

/-- A failing first call ends the operation with its error (R200, D28). -/
theorem FirstCall.fail {e : TransportError} (h : FirstCall s i c) (fail : s.answerTo c = .fail e) :
    exec i s = .next (s.ended [.check, .t1, .done] [c.event none] (.transportFail e)) := by
  obtain ⟨next, run⟩ := h
  rw [run, transact_fail (s := s.enter .check) fail, State.transportFailed, oneCall_deliver]
  simp [Answer.bytes?, State.ended]

/-- A first call that never returns leaves the operation in T1 (R296, U18). -/
theorem FirstCall.never (h : FirstCall s i c) (never : s.answerTo c = .never) :
    exec i s = .next (s.stuck [.check, .t1] [c.event none] .t1 c) := by
  obtain ⟨next, run⟩ := h
  rw [run, transact_never (s := s.enter .check) never, oneCall_never]

/-- An operation that is one `runGet` ends with the bytes decoded, or with the transport's error (R230). -/
theorem outcomes_of_eq_runGet {reg : Byte} {n : Nat} {f : List Byte → Result} {o : Host.Outcome State Fault Refusal}
    (run : o = .next (runGet p reg n f s)) :
    (∀ b, s.answerTo (.read p reg n) = .ok b →
      o = .next (s.ended [.check, .t1, .done] [.read p reg n (some b)] (.ok (f b)))) ∧
    (∀ e, s.answerTo (.read p reg n) = .fail e →
      o = .next (s.ended [.check, .t1, .done] [.read p reg n none] (.transportFail e))) :=
  ⟨fun _ ok => by rw [run, runGet_of_ok f ok], fun _ fail => by rw [run, runGet_of_fail f fail]⟩

/-! ## Two calls -/

theorem twoCalls_of_ok {a b : List Byte} {fin : List Byte → State → State} (first : s.answerTo c = .ok a)
    (second : (s.afterCall c (.ok a)).answerTo d = .ok b) :
    ((s.enter .check).transact .t1 c fun _ u => u.transact .t2 d fin) =
      fin b (((((s.enter .check).enter .t1).afterCall c (.ok a)).enter .t2).afterCall d (.ok b)) := by
  rw [← answerTo_second] at second
  rw [transact_ok (s := s.enter .check) first, transact_ok second]

/-- A failing second call ends the operation with its error; what the first call stored stays stored. -/
theorem twoCalls_of_second_fail {a : List Byte} {e : TransportError} {fin : List Byte → State → State}
    (first : s.answerTo c = .ok a) (second : (s.afterCall c (.ok a)).answerTo d = .fail e) :
    ((s.enter .check).transact .t1 c fun _ u => u.transact .t2 d fin) =
      { s.ended [.check, .t1, .t2, .done] [c.event (some a), d.event none] (.transportFail e) with
        memory := memoryAfter s.double s.memory c (.ok a) } := by
  rw [← answerTo_second] at second
  rw [transact_ok (s := s.enter .check) first, transact_fail second, State.transportFailed, twoCalls_deliver,
    memoryAfter_fail]
  rfl

/-- Two calls answered, the array filled, then the list delivered. -/
theorem twoCalls_deliver_list (s : State) (c d : Call) (a b : Answer) (rs : List ObjectReading) (r : Response) :
    ((((((s.enter .check).enter .t1).afterCall c a).enter .t2).afterCall d b).fillArray rs).deliver r =
      { s.ended [.check, .t1, .t2, .done] [c.event a.bytes?, d.event b.bytes?] r with
        arrays := writeArray s.arrays s.target (s.array.fill rs)
        memory := memoryAfter s.double (memoryAfter s.double s.memory c a) d b } :=
  congrArg (fun t : State => { t with arrays := writeArray s.arrays s.target (s.array.fill rs) })
    (twoCalls_deliver s c d a b r)

/-! ## getObjects -/

/-- The two bytes of an id joined again are the frame OBJREQ of the id (R140). -/
theorem packObjectRequest_append {lo hi : Byte} (h : 0 < (hi ++ lo : Word16).toInt) :
    packObjectRequest (hi ++ lo) = some [lo, hi] := by
  have low : (hi ++ lo : Word16).extractLsb' 0 8 = lo := by
    apply BitVec.eq_of_toNat_eq
    have joined := join2_toNat lo hi
    have := lo.isLt
    simp only [BitVec.extractLsb'_toNat, Nat.shiftRight_eq_div_pow]
    omega
  have high : (hi ++ lo : Word16).extractLsb' 8 8 = hi := by
    apply BitVec.eq_of_toNat_eq
    have joined := join2_toNat lo hi
    have := lo.isLt
    have := hi.isLt
    simp only [BitVec.extractLsb'_toNat, Nat.shiftRight_eq_div_pow]
    omega
  rw [packObjectRequest_of_pos h.not_ge, low, high]

theorem exec_getObjects_of_pos {lo hi : Byte} {m : Nat} (h : 0 < (hi ++ lo : Word16).toInt) (hm : m ≠ 0) :
    exec (.getObjects p (hi ++ lo) m) s = .next (runGetObjects p (hi ++ lo) [lo, hi] (min m 4) s) := by
  simp only [exec, execGetObjects, packObjectRequest_append h, if_neg hm, maxObj]

/-- Settles O26: the id is checked first. -/
theorem getObjectsRejectsNonPositiveIds : Obligations.GetObjectsRejectsNonPositiveIds := by
  unfold Obligations.GetObjectsRejectsNonPositiveIds
  exact fun _ _ _ _ => exec_getObjects_of_nonpos

/-- Settles O27: both calls answered, the array is filled and the list delivered. -/
theorem getObjectsReturnsTheList : Obligations.GetObjectsReturnsTheList := by
  unfold Obligations.GetObjectsReturnsTheList
  rintro s port _ m _ lo hi buf _ pos rfl hm rfl wrote readBack rfl
  rw [exec_getObjects_of_pos pos hm]
  refine congrArg Host.Outcome.next ((twoCalls_of_ok wrote readBack).trans ?_)
  exact twoCalls_deliver_list s (.write port 0x24 [lo, hi]) (.read port 0x26 (6 * min m 4)) (.ok []) (.ok buf) _ _

/-- Settles O28: the write is the first call, the read the second. -/
theorem getObjectsStopsAtAFailedCall : Obligations.GetObjectsStopsAtAFailedCall := by
  unfold Obligations.GetObjectsStopsAtAFailedCall
  rintro s port _ m lo hi e pos rfl hm
  refine ⟨FirstCall.fail (c := .write port 0x24 [lo, hi]) ⟨_, exec_getObjects_of_pos pos hm⟩, fun wrote fail => ?_⟩
  rw [exec_getObjects_of_pos pos hm]
  exact congrArg Host.Outcome.next (twoCalls_of_second_fail wrote fail)

/-! ## setSignature and getSignature -/

/-- The frame that an accepted record goes out as is the one that holds its id and its fields (R160, R203). -/
theorem eq_signatureFrame {sig : HostSignature} {f : List Byte} (h1 : 1 ≤ sig.id) (h7 : sig.id ≤ 7) (len : f.length = 37)
    (first : (f.getD 0 0).toNat = sig.id) (fields : HoldsFields f 1 sig) :
    f = encodeSignature (withId sig (narrowId sig.id)) := by
  have id : f.getD 0 0 = narrowId sig.id :=
    BitVec.eq_of_toNat_eq (Int.ofNat_inj.1 (first.trans (narrowId_toNat h1 h7).symm))
  exact eq_of_holdsFields (r := withId sig (narrowId sig.id)) len (encodeSignature_length _) id fields
    (holdsFields_encodeSignature _)

/-- The byte with an accepted id's value is the narrowed id (R203). -/
theorem eq_narrowId {id : Int} {b : Byte} (h1 : 1 ≤ id) (h7 : id ≤ 7) (hb : (b.toNat : Int) = id) : b = narrowId id :=
  BitVec.eq_of_toNat_eq (Int.ofNat_inj.1 (hb.trans (narrowId_toNat h1 h7).symm))

theorem exec_setSignature_of_valid {sig : HostSignature} (h1 : 1 ≤ sig.id) (h7 : sig.id ≤ 7) :
    exec (.setSignature p sig) s =
      .next ((s.enter .check).transact .t1 (.write p 0xAF (encodeSignature (withId sig (narrowId sig.id))))
        fun _ t => t.deliver (.ok (.flag true))) :=
  if_pos ((validSigId_iff _).2 ⟨h1, h7⟩)

theorem exec_getSignature_of_valid {id : Int} (h1 : 1 ≤ id) (h7 : id ≤ 7) :
    exec (.getSignature p id) s =
      .next ((s.enter .check).transact .t1 (.write p 0xAF [narrowId id]) fun _ t =>
        t.transact .t2 (.read p 0xAF 36) fun payload u =>
          u.deliver (.ok (.signature (decodeSignaturePayload payload (narrowId id))))) :=
  if_pos ((validSigId_iff _).2 ⟨h1, h7⟩)

/-- Settles O29: the frame is the record's, and the write is answered `ok`. -/
theorem setSignatureWritesTheRecord : Obligations.SetSignatureWritesTheRecord := by
  unfold Obligations.SetSignatureWritesTheRecord
  intro s port sig f h1 h7 len first fields wrote
  obtain rfl := eq_signatureFrame h1 h7 len first fields
  rw [exec_setSignature_of_valid h1 h7, transact_ok (s := s.enter .check) wrote]
  exact congrArg Host.Outcome.next (oneCall_deliver s _ _ _)

/-- Settles O30: both calls answered, the record decoded has the operand as its id and the payload's fields. -/
theorem getSignatureRestoresTheId : Obligations.GetSignatureRestoresTheId := by
  unfold Obligations.GetSignatureRestoresTheId
  intro s port id b pay h1 h7 hb wrote readBack
  obtain rfl := eq_narrowId h1 h7 hb
  refine ⟨decodeSignaturePayload pay (narrowId id), rfl, holdsFields_decodeSignaturePayload pay _, ?_⟩
  rw [exec_getSignature_of_valid h1 h7, twoCalls_of_ok wrote readBack, twoCalls_deliver]
  rfl

/-- Settles O31: the operand check comes before any narrowing. -/
theorem signatureOperationsRejectOtherIds : Obligations.SignatureOperationsRejectOtherIds := by
  unfold Obligations.SignatureOperationsRejectOtherIds
  exact fun _ _ => ⟨fun _ => exec_setSignature_of_outside, fun _ => exec_getSignature_of_outside⟩

/-- Settles O32: the write is either operation's first call, the read the second of `getSignature`. -/
theorem signatureOperationsStopAtAFailedCall : Obligations.SignatureOperationsStopAtAFailedCall := by
  unfold Obligations.SignatureOperationsStopAtAFailedCall
  intro s port e
  constructor
  · intro sig f h1 h7 len first fields
    obtain rfl := eq_signatureFrame h1 h7 len first fields
    exact FirstCall.fail ⟨_, exec_setSignature_of_valid h1 h7⟩
  · intro id b h1 h7 hb
    obtain rfl := eq_narrowId h1 h7 hb
    refine ⟨FirstCall.fail ⟨_, exec_getSignature_of_valid h1 h7⟩, fun wrote fail => ?_⟩
    rw [exec_getSignature_of_valid h1 h7, twoCalls_of_second_fail wrote fail]
    rfl

/-! ## Gets -/

theorem exec_getBrightness : exec (.getBrightness p) s = .next (runGet p 0xE2 1 (fun b => .byte (decodeByte b)) s) := rfl

theorem exec_getWhiteBalanceMode :
    exec (.getWhiteBalanceMode p) s =
      .next (runGet p 0xE3 1 (fun b => .wbMode (byteAt b 0) (wbModeOf s.wbCode (byteAt b 0))) s) := rfl

theorem exec_getLedMode :
    exec (.getLedMode p) s =
      .next (runGet p 0xEB 1 (fun b => .ledMode (byteAt b 0) (ledModeOf s.ledCode (byteAt b 0))) s) := rfl

theorem exec_getLedColor :
    exec (.getLedColor p) s = .next (runGet p 0xE7 4 (fun b => .color (decodeLedGet b)) s) := rfl

/-- Settles O33: the byte read is the byte returned. -/
theorem getBrightnessReturnsTheByte : Obligations.GetBrightnessReturnsTheByte := by
  unfold Obligations.GetBrightnessReturnsTheByte
  intro s port
  obtain ⟨ok, fail⟩ := outcomes_of_eq_runGet (exec_getBrightness (p := port) (s := s))
  exact ⟨fun b => ok [b], fail⟩

/-- Settles O35: the byte read is returned with the member it is decoded to. -/
theorem getWhiteBalanceModeReadsE3 : Obligations.GetWhiteBalanceModeReadsE3 := by
  unfold Obligations.GetWhiteBalanceModeReadsE3
  intro s port inj
  obtain ⟨ok, fail⟩ := outcomes_of_eq_runGet (exec_getWhiteBalanceMode (p := port) (s := s))
  exact ⟨fun b answered => ⟨wbModeOf s.wbCode b, wbModeOf_eq_some_iff inj b, ok [b] answered⟩, fail⟩

/-- Settles O39: the byte read is returned with the member it is decoded to. -/
theorem getLedModeReadsEB : Obligations.GetLedModeReadsEB := by
  unfold Obligations.GetLedModeReadsEB
  intro s port inj
  obtain ⟨ok, fail⟩ := outcomes_of_eq_runGet (exec_getLedMode (p := port) (s := s))
  exact ⟨fun b answered => ⟨ledModeOf s.ledCode b, ledModeOf_eq_some_iff inj b, ok [b] answered⟩, fail⟩

/-- Settles O42: the frame LEDGET is decoded byte for byte. -/
theorem getLedColorReadsFourBytes : Obligations.GetLedColorReadsFourBytes := by
  unfold Obligations.GetLedColorReadsFourBytes
  intro s port
  obtain ⟨ok, fail⟩ := outcomes_of_eq_runGet (exec_getLedColor (p := port) (s := s))
  exact ⟨fun v r g b => ok [v, r, g, b], fail⟩

/-! ## First calls that never return -/

/-- Settles O49: each operation's first call is the one named beside it. -/
theorem unreturnedCallLeavesTheOperationInProgress : Obligations.UnreturnedCallLeavesTheOperationInProgress := by
  unfold Obligations.UnreturnedCallLeavesTheOperationInProgress
  intro s p
  constructor
  · intro i reg n listed
    have first : FirstCall s i (.read p reg n) := by
      simp only [List.mem_cons, Prod.mk.injEq, List.not_mem_nil, or_false] at listed
      rcases listed with ⟨rfl, rfl, rfl⟩ | ⟨rfl, rfl, rfl⟩ | ⟨rfl, rfl, rfl⟩ | ⟨rfl, rfl, rfl⟩ | ⟨rfl, rfl, rfl⟩ <;>
        exact ⟨_, rfl⟩
    exact first.never
  · intro i reg f v lo hi m l c sig maxCount hv pos hm h1 h7 listed
    have first : FirstCall s i (.write p reg f) := by
      simp only [List.mem_cons, Prod.mk.injEq, List.not_mem_nil, or_false] at listed
      rcases listed with ⟨rfl, rfl, rfl⟩ | ⟨rfl, rfl, rfl⟩ | ⟨rfl, rfl, rfl⟩ | ⟨rfl, rfl, rfl⟩ | ⟨rfl, rfl, rfl⟩ |
        ⟨rfl, rfl, rfl⟩ | ⟨rfl, rfl, rfl⟩ | ⟨rfl, rfl, rfl⟩
      · exact ⟨_, exec_setBrightness_of_le hv⟩
      · exact ⟨_, exec_setWhiteBalanceMode m⟩
      · exact ⟨_, exec_setWhiteBalance c⟩
      · exact ⟨_, exec_setLedMode l⟩
      · exact ⟨_, exec_setLedColor c⟩
      · exact ⟨_, exec_getObjects_of_pos pos hm⟩
      · exact ⟨_, exec_setSignature_of_valid h1 h7⟩
      · exact ⟨_, exec_getSignature_of_valid h1 h7⟩
    exact first.never

end Sys2Proof.Machine

/-! PROOF of O43, O44 and O45 (discovery, R270 to R273). A scan passes over ports whose types do not match (`PassesOver`) and
then ends: no port is left, or the next query matches, fails or never returns. With the answers scripted, the script says
where. -/

namespace Sys2Proof.Machine

variable {s u : State} {k n : Nat} {p : Port} {ps post : List Port} {t : Byte} {ts : List Byte} {e : TransportError}

/-! ## One query -/

theorem scanPorts_nil : scanPorts [] k s = s.ended [.scan k, .done] [] (.ok (.port none)) := by
  simp [scanPorts, State.enter, State.deliver, State.ended]

/-- One query, then the response. -/
theorem query_deliver (s : State) (k : Nat) (p : Port) (a : Answer) (r : Response) :
    ((s.enter (.scan k)).afterCall (.query p) a).deliver r =
      s.ended [.scan k, .done] [.query p (a.bytes?.map (byteAt · 0))] r := by
  simp [State.enter, State.afterCall, State.deliver, State.ended, Call.event]

theorem scanPorts_of_other (answered : s.answerTo (.query p) = .ok [t]) (other : t ≠ visionType) :
    scanPorts (p :: ps) k s = scanPorts ps (k + 1) ((s.enter (.scan k)).afterCall (.query p) (.ok [t])) :=
  (transact_ok answered).trans (if_neg other)

theorem scanPorts_of_match (answered : s.answerTo (.query p) = .ok [visionType]) :
    scanPorts (p :: ps) k s = s.ended [.scan k, .done] [.query p (some visionType)] (.ok (.port (some p))) :=
  (transact_ok answered).trans (query_deliver s k p _ _)

theorem scanPorts_of_fail (fail : s.answerTo (.query p) = .fail e) :
    scanPorts (p :: ps) k s = s.ended [.scan k, .done] [.query p none] (.transportFail e) :=
  (transact_fail fail).trans (query_deliver s k p _ _)

theorem scanPorts_of_never (never : s.answerTo (.query p) = .never) :
    scanPorts (p :: ps) k s = s.stuck [.scan k] [.query p none] (.scan k) (.query p) := by
  refine (transact_never never).trans ?_
  simp [State.enter, State.afterCall, State.stuck, Call.event, Answer.bytes?]

/-- A query is answered one byte, an error, or nothing (R53). -/
theorem answerTo_query_cases (s : State) (p : Port) :
    (∃ t, s.answerTo (.query p) = .ok [t]) ∨ (∃ e, s.answerTo (.query p) = .fail e) ∨ s.answerTo (.query p) = .never := by
  cases h : s.answerTo (.query p) with
  | ok b =>
    obtain ⟨t, rfl⟩ := List.length_eq_one_iff.1 (answerTo_ok_length h)
    exact .inl ⟨t, rfl⟩
  | fail e => exact .inr (.inl ⟨e, rfl⟩)
  | never => exact .inr (.inr rfl)

/-! ## The ports passed over -/

/-- From `s` a scan queries the ports `ps`, the first of them with index `k`, is answered the types `ts`, none of which matches,
and is then in `u`. -/
inductive PassesOver : State → Nat → List Port → List Byte → State → Prop where
  | nil (s : State) (k : Nat) : PassesOver s k [] [] s
  | cons {s : State} {k : Nat} {p : Port} {t : Byte} {ps : List Port} {ts : List Byte} {u : State}
      (answered : s.answerTo (.query p) = .ok [t]) (other : t ≠ visionType)
      (rest : PassesOver ((s.enter (.scan k)).afterCall (.query p) (.ok [t])) (k + 1) ps ts u) :
      PassesOver s k (p :: ps) (t :: ts) u

/-- The events of the ports `ps` queried and answered the types `ts`. -/
def queried (ps : List Port) (ts : List Byte) : List Event := List.zipWith (fun p t => .query p (some t)) ps ts

/-- The phases of a scan at the indices from `k` on, `n` of them. -/
def scanPhases (k n : Nat) : List Phase := (List.range' k n).map .scan

theorem scanPhases_append_done (n : Nat) :
    scanPhases 0 n ++ [.scan (0 + n), .done] = (List.range (n + 1)).map .scan ++ [.done] := by
  simp [scanPhases, List.range_succ, List.range_eq_range']

namespace PassesOver

theorem length_eq (h : PassesOver s k ps ts u) : ts.length = ps.length := by
  induction h with
  | nil => rfl
  | cons _ _ _ ih => simpa using ih

theorem visionType_notMem (h : PassesOver s k ps ts u) : visionType ∉ ts := by
  induction h with
  | nil => exact List.not_mem_nil
  | cons _ other _ ih => exact fun mem => (List.mem_cons.1 mem).elim (fun eq => other eq.symm) ih

/-- The scan goes on from where it passed over the first ports. -/
theorem scanPorts_append (h : PassesOver s k ps ts u) (post : List Port) :
    scanPorts (ps ++ post) k s = scanPorts post (k + ps.length) u := by
  induction h with
  | nil => rfl
  | cons answered other _ ih =>
    rw [List.cons_append, scanPorts_of_other answered other, ih, List.length_cons, Nat.add_assoc, Nat.add_comm 1]

/-- An operation that ends after the ports were passed over made their queries as well. -/
theorem ended (h : PassesOver s k ps ts u) (phases : List Phase) (events : List Event) (r : Response) :
    u.ended phases events r = s.ended (scanPhases k ps.length ++ phases) (queried ps ts ++ events) r := by
  induction h with
  | nil => simp [scanPhases, queried]
  | cons _ _ _ ih =>
    rw [ih]
    simp [State.ended, scanPhases, queried, List.range'_succ, Call.event, Answer.bytes?, byteAt, Nat.add_assoc,
      Nat.add_comm 1]

/-- An operation stuck after the ports were passed over made their queries as well. -/
theorem stuck (h : PassesOver s k ps ts u) (phases : List Phase) (events : List Event) (j : Phase) (c : Call) :
    u.stuck phases events j c = s.stuck (scanPhases k ps.length ++ phases) (queried ps ts ++ events) j c := by
  induction h with
  | nil => simp [scanPhases, queried]
  | cons _ _ _ ih =>
    rw [ih]
    simp [State.stuck, scanPhases, queried, List.range'_succ, Call.event, Answer.bytes?, byteAt, Nat.add_assoc,
      Nat.add_comm 1]

/-- Every scan passes over some first ports, and then no port is left or the next one's type, if it is answered, matches. -/
theorem exists_longest (ps : List Port) (k : Nat) (s : State) :
    ∃ pre post ts u, ps = pre ++ post ∧ PassesOver s k pre ts u ∧
      ∀ p rest t, post = p :: rest → u.answerTo (.query p) = .ok [t] → t = visionType := by
  induction ps generalizing k s with
  | nil => exact ⟨[], [], [], s, rfl, .nil s k, nofun⟩
  | cons p ps ih =>
    by_cases skip : ∃ t, s.answerTo (.query p) = .ok [t] ∧ t ≠ visionType
    · obtain ⟨t, answered, other⟩ := skip
      obtain ⟨pre, post, ts, u, rfl, passed, longest⟩ := ih (k + 1) ((s.enter (.scan k)).afterCall (.query p) (.ok [t]))
      exact ⟨p :: pre, post, t :: ts, u, rfl, .cons answered other passed, longest⟩
    · refine ⟨[], p :: ps, [], s, rfl, .nil s k, ?_⟩
      rintro _ _ t ⟨⟩ answered
      by_contra other
      exact skip ⟨t, answered, other⟩

/-- Scripted types that do not match are passed over, and the rest of the script is left. -/
theorem exists_of_script {rest : List Answer} (len : ts.length = ps.length) (others : visionType ∉ ts)
    (script : s.script = ts.map (fun t => .ok [t]) ++ rest) : ∃ u, PassesOver s k ps ts u ∧ u.script = rest := by
  induction ps generalizing s k ts with
  | nil =>
    obtain rfl := List.length_eq_zero_iff.1 len
    exact ⟨s, .nil s k, script⟩
  | cons p ps ih =>
    obtain ⟨t, ts, rfl⟩ := List.exists_cons_of_length_eq_add_one len
    obtain ⟨other, others⟩ := List.ne_and_not_mem_of_not_mem_cons others
    obtain ⟨u, passed, left⟩ := ih (s := (s.enter (.scan k)).afterCall (.query p) (.ok [t])) (k := k + 1)
      (Nat.succ.inj len) others (by simp [script])
    exact ⟨u, .cons (answerTo_scripted script rfl) (Ne.symm other) passed, left⟩

end PassesOver

/-! ## The obligations -/

/-- Settles O43: the types before the match are passed over, and the next answer is the match. -/
theorem findFirstSensorReturnsTheFirstMatch : Obligations.FindFirstSensorReturnsTheFirstMatch := by
  unfold Obligations.FindFirstSensorReturnsTheFirstMatch
  intro s pre post p types rest ports len others script
  obtain ⟨u, passed, left⟩ := PassesOver.exists_of_script (k := 0) len others script
  rw [exec, execFindFirstSensor, ports, passed.scanPorts_append, scanPorts_of_match (answerTo_scripted left rfl),
    passed.ended, scanPhases_append_done]
  rfl

/-- Settles O44: every type is passed over and no port is left, or the next answer is the failure. -/
theorem findFirstSensorWithoutAMatch : Obligations.FindFirstSensorWithoutAMatch := by
  unfold Obligations.FindFirstSensorWithoutAMatch
  constructor
  · intro s types rest len others script
    obtain ⟨u, passed, -⟩ := PassesOver.exists_of_script (k := 0) len others script
    have run := passed.scanPorts_append []
    rw [List.append_nil, scanPorts_nil, passed.ended, scanPhases_append_done, List.append_nil] at run
    exact congrArg Host.Outcome.next run
  · intro s pre post p types e rest ports len others script
    obtain ⟨u, passed, left⟩ := PassesOver.exists_of_script (k := 0) len others script
    rw [exec, execFindFirstSensor, ports, passed.scanPorts_append, scanPorts_of_fail (answerTo_scripted left rfl),
      passed.ended, scanPhases_append_done]
    rfl

/-- The events of the ports passed over and of one query more, as the statement pairs ports and answers. -/
theorem queried_append_query {pre : List Port} (len : ts.length = pre.length) (p : Port) (post : List Port)
    (a : Option Byte) :
    queried pre ts ++ [.query p a] = List.zipWith (fun q a => .query q a) (pre ++ p :: post) (ts.map some ++ [a]) := by
  rw [List.zipWith_append (by simp [len]), List.zipWith_map_right]
  simp [queried]

/-- The query after the ports passed over matches, fails or never returns, and the scan ends in it. -/
theorem PassesOver.last_query (passed : PassesOver s k ps ts u)
    (longest : ∀ t, u.answerTo (.query p) = .ok [t] → t = visionType) :
    ∃ (v : State) (a : Option Byte), scanPorts (p :: post) (k + ps.length) u = v ∧
      v.trace = s.trace ++ (queried ps ts ++ [.query p a]) ∧
      ((a = some 0x0B ∧ v.ph = none ∧ v.responses = s.responses ++ [.ok (.port (some p))]) ∨
       (∃ e, a = none ∧ v.ph = none ∧ v.responses = s.responses ++ [.transportFail e]) ∨
       (a = none ∧ v.ph = some (.scan (k + ps.length)) ∧ v.responses = s.responses)) := by
  obtain ⟨t, answered⟩ | ⟨e, fail⟩ | never := answerTo_query_cases u p
  · obtain rfl := longest t answered
    refine ⟨_, some visionType, (scanPorts_of_match answered).trans (passed.ended ..), rfl, .inl ⟨rfl, rfl, rfl⟩⟩
  · refine ⟨_, none, (scanPorts_of_fail fail).trans (passed.ended ..), rfl, .inr (.inl ⟨e, rfl, rfl, rfl⟩)⟩
  · refine ⟨_, none, (scanPorts_of_never never).trans (passed.stuck ..), rfl, .inr (.inr ⟨rfl, rfl, rfl⟩)⟩

/-- Settles O45: the scan passes over the longest run of ports that do not match; then it is exhausted, or the next query
decides. -/
theorem scanOutcomes : Obligations.ScanOutcomes := by
  unfold Obligations.ScanOutcomes
  intro s
  obtain ⟨pre, post, ts, u, ports, passed, longest⟩ := PassesOver.exists_longest s.ports 0 s
  have others : ∀ a ∈ ts.map some, ∃ b, a = some b ∧ b ≠ 0x0B := by
    simp only [List.mem_map]
    rintro _ ⟨b, mem, rfl⟩
    exact ⟨b, rfl, fun eq => passed.visionType_notMem ((show b = visionType from eq) ▸ mem)⟩
  have len := passed.length_eq
  rw [exec, execFindFirstSensor, ports, passed.scanPorts_append]
  cases post with
  | nil =>
    rw [scanPorts_nil, passed.ended, List.append_nil, List.append_nil, queried, ← List.zipWith_map_right]
    refine ⟨_, ts.map some, rfl, by simp [len], rfl, fun a mem => others a (List.mem_of_mem_dropLast mem), ?_⟩
    exact .inr (.inr (.inr ⟨by simp [len], others, rfl, rfl⟩))
  | cons p post =>
    obtain ⟨t, a, run, trace, ending⟩ := passed.last_query (p := p) (post := post) fun t => longest p post t rfl
    rw [run]
    refine ⟨t, ts.map some ++ [a], rfl, by simp [len], ?_, by simpa using others, ?_⟩
    · rw [trace, queried_append_query len p post a]
    · rw [List.getLast?_concat, List.length_append, List.length_map, len, List.length_singleton, Nat.add_sub_cancel]
      obtain ⟨rfl, ph, delivered⟩ | ⟨e, rfl, ph, delivered⟩ | ⟨rfl, ph, delivered⟩ := ending
      · exact .inl ⟨p, by simp, rfl, ph, delivered⟩
      · exact .inr (.inl ⟨e, rfl, ph, delivered⟩)
      · exact .inr (.inr (.inl ⟨rfl, by rwa [Nat.zero_add] at ph, delivered⟩))

end Sys2Proof.Machine

/-! PROOF of O14, O48, O53, O57 and O60 (D10, R280, U18, D24). How an operation ends is said once, for every operation
(`exec_ends`): with a response, after the array was filled if it is a list of objects, or stuck in a call. -/

namespace Sys2Proof.Machine

variable {s t u : State} {i : Instr} {k : Phase} {c : Call}

/-! ## How an operation ends -/

/-- In `u` an operation begun in `s` is in progress: nothing is delivered yet, and no array was touched. -/
structure Midway (s u : State) : Prop where
  responses : u.responses = s.responses
  arrays : u.arrays = s.arrays
  target : u.target = s.target

/-- Every result but a list of objects. -/
def Response.noList (r : Response) : Prop := ∀ rs, r ≠ .ok (.objects rs)

/-- How an operation begun in `s` ends: a codec function with its response, an operation with phases with a response delivered
or stuck in a phase; only a list of objects fills an array. -/
inductive Ends (s : State) : State → Prop where
  | respond {r : Response} (noList : r.noList) : Ends s (s.respond r)
  | respondList (rs : List ObjectReading) : Ends s ((s.fillArray rs).respond (.ok (.objects rs)))
  | deliver {u : State} {r : Response} (midway : Midway s u) (noList : r.noList) : Ends s (u.deliver r)
  | deliverList {u : State} (midway : Midway s u) (rs : List ObjectReading) :
      Ends s ((u.fillArray rs).deliver (.ok (.objects rs)))
  | stuck {u : State} {k : Phase} (midway : Midway s u) (phase : u.ph = some k) : Ends s u

namespace Midway

theorem start (s : State) : Midway s s := ⟨rfl, rfl, rfl⟩

theorem enter (h : Midway s u) (k : Phase) : Midway s (u.enter k) := { h with }

theorem afterCall (h : Midway s u) (c : Call) (a : Answer) : Midway s (u.afterCall c a) := { h with }

end Midway

namespace Ends

variable {next : List Byte → State → State}

theorem reject (s : State) : Ends s s.reject := .deliver ((Midway.start s).enter .check) nofun

/-- A failing call ends the operation, one that never returns leaves it stuck, so only what follows an `ok` matters. -/
theorem transact (h : Midway s u) (go : ∀ b v, Midway s v → Ends s (next b v)) : Ends s (u.transact k c next) := by
  have called : ∀ a, Midway s ((u.enter k).afterCall c a) := fun a => (h.enter k).afterCall c a
  rcases transact_cases u k c next with ⟨b, -, run⟩ | ⟨e, -, run⟩ | ⟨-, run⟩ <;> rw [run]
  · exact go _ _ (called _)
  · exact .deliver (called _) nofun
  · exact .stuck (called _) rfl

theorem oneCall (s : State) (c : Call) {f : List Byte → Result} (noList : ∀ b rs, f b ≠ .objects rs) :
    Ends s ((s.enter .check).transact .t1 c fun b v => v.deliver (.ok (f b))) :=
  transact ((Midway.start s).enter .check) fun b _ hv => .deliver hv fun rs eq => noList b rs (Response.ok.inj eq)

theorem runGet (s : State) (p : Port) (reg : Byte) (n : Nat) {f : List Byte → Result}
    (noList : ∀ b rs, f b ≠ .objects rs) : Ends s (runGet p reg n f s) :=
  oneCall s (.read p reg n) noList

theorem runSet (s : State) (p : Port) (reg : Byte) (f : List Byte) : Ends s (runSet p reg f s) :=
  oneCall s (.write p reg f) (f := fun _ => .nothing) nofun

theorem twoCalls (s : State) (c d : Call) {fin : List Byte → State → State}
    (go : ∀ b v, Midway s v → Ends s (fin b v)) :
    Ends s ((s.enter .check).transact .t1 c fun _ v => v.transact .t2 d fin) :=
  transact ((Midway.start s).enter .check) fun _ _ hv => transact hv go

theorem runGetObjects (s : State) (p : Port) (id : Word16) (f : List Byte) (n : Nat) :
    Ends s (runGetObjects p id f n s) :=
  twoCalls s (.write p regObjId f) (.read p regObjData (recLen * n)) fun _ _ hv => .deliverList hv _

theorem scanPorts (ps : List Port) (k : Nat) (h : Midway s u) : Ends s (scanPorts ps k u) := by
  induction ps generalizing k u with
  | nil => exact .deliver (h.enter _) nofun
  | cons p ps ih =>
    refine transact h fun b v hv => ?_
    by_cases hb : byteAt b 0 = visionType
    · simpa only [if_pos hb] using .deliver hv nofun
    · simpa only [if_neg hb] using ih (k + 1) hv

end Ends

/-- An outcome whose next state, if there is one, is an end of an operation begun in `s`. -/
def OutcomeEnds (s : State) (o : Host.Outcome State Fault Refusal) : Prop := ∀ t, o = .next t → Ends s t

namespace OutcomeEnds

theorem next (h : Ends s t) : OutcomeEnds s (.next t) := by
  rintro _ ⟨⟩
  exact h

theorem refused (r : Refusal) : OutcomeEnds s (.refused r) := nofun

theorem respond {r : Response} (noList : r.noList) : OutcomeEnds s (.next (s.respond r)) := next (.respond noList)

theorem ite {c : Prop} [Decidable c] {o p : Host.Outcome State Fault Refusal} (pos : OutcomeEnds s o)
    (neg : OutcomeEnds s p) : OutcomeEnds s (if c then o else p) := by
  by_cases hc : c
  · simpa only [if_pos hc] using pos
  · simpa only [if_neg hc] using neg

end OutcomeEnds

theorem execPackObjectRequest_ends (id : Word16) (s : State) : OutcomeEnds s (execPackObjectRequest id s) := by
  unfold execPackObjectRequest
  cases packObjectRequest id with
  | none => exact .respond nofun
  | some f => exact .respond nofun

theorem execGetObjects_ends (p : Port) (id : Word16) (m : Nat) (s : State) : OutcomeEnds s (execGetObjects p id m s) := by
  unfold execGetObjects
  cases packObjectRequest id with
  | none => exact .next (.reject s)
  | some f => exact .ite (.refused _) (.next (.runGetObjects s ..))

/-- Every operation ends in one of these ways. -/
theorem exec_outcomeEnds (i : Instr) (s : State) : OutcomeEnds s (exec i s) := by
  cases i
  case pack32le | encodeSignature | encodeSignatureSelect | encodeByte | encodeWbSet | encodeLedSet | encodeWbMode
      | encodeLedMode =>
    exact .respond nofun
  case unpack32le | decodeSignature | decodeSignaturePayload | decodeByte | decodeWbRgb | decodeLedGet | decodeWbMode
      | decodeLedMode =>
    exact .ite (.respond nofun) (.refused _)
  case packObjectRequest id => exact execPackObjectRequest_ends id s
  case decodeObjectList => exact .ite (.next (.respondList _)) (.refused _)
  case getObjects p id m => exact execGetObjects_ends p id m s
  case setSignature => exact .ite (.next (.oneCall s _ (f := fun _ => .flag true) nofun)) (.next (.reject s))
  case getSignature => exact .ite (.next (.twoCalls s _ _ fun _ _ hv => .deliver hv nofun)) (.next (.reject s))
  case setBrightness => exact .ite (.next (.runSet s ..)) (.refused _)
  case getBrightness | getWhiteBalanceMode | getWhiteBalance | getLedMode | getLedColor =>
    exact .next (.runGet s _ _ _ nofun)
  case setWhiteBalanceMode | setWhiteBalance | setLedMode | setLedColor => exact .next (.runSet s ..)
  case findFirstSensor => exact .next (.scanPorts s.ports 0 (.start s))

theorem exec_ends (run : exec i s = .next t) : Ends s t := exec_outcomeEnds i s t run

/-! ## Responses -/

theorem Ends.oneResponseOrStuck (h : Ends s t) (idle : s.ph = none) :
    (t.ph = none ∧ ∃ r, t.responses = s.responses ++ [r]) ∨ (∃ k, t.ph = some k ∧ t.responses = s.responses) := by
  cases h with
  | respond noList => exact .inl ⟨idle, _, rfl⟩
  | respondList rs => exact .inl ⟨idle, _, rfl⟩
  | deliver midway noList => exact .inl ⟨rfl, _, congrArg (· ++ _) midway.responses⟩
  | deliverList midway rs => exact .inl ⟨rfl, _, congrArg (· ++ _) midway.responses⟩
  | stuck midway phase => exact .inr ⟨_, phase, midway.responses⟩

/-- Settles O48: by how the operation ends. -/
theorem oneResponseOrStuck : Obligations.OneResponseOrStuck := by
  unfold Obligations.OneResponseOrStuck
  exact fun _ _ _ idle run => (exec_ends run).oneResponseOrStuck idle

/-! ## The caller's arrays -/

/-- A list of objects fills the array that the request names, and nothing else touches an array. -/
theorem Ends.arrays_cases (h : Ends s t) :
    ((∀ a, t.arrayOf a = s.arrayOf a) ∧ ∀ rs, t.responses ≠ s.responses ++ [.ok (.objects rs)]) ∨
    ∃ rs, t.responses = s.responses ++ [.ok (.objects rs)] ∧
      ∀ a, t.arrayOf a = if a = s.target then s.array.fill rs else s.arrayOf a := by
  have last {l : List Response} {r : Response} (noList : r.noList) (rs) : l ++ [r] ≠ l ++ [.ok (.objects rs)] :=
    fun eq => noList rs (List.singleton_inj.1 (List.append_cancel_left eq))
  cases h with
  | respond noList => exact .inl ⟨fun _ => rfl, last noList⟩
  | respondList rs => exact .inr ⟨rs, rfl, arrayOf_fillArray s rs⟩
  | deliver midway noList =>
    refine .inl ⟨fun a => congrArg (readArray · a) midway.arrays, fun rs => ?_⟩
    rw [State.deliver_responses, midway.responses]
    exact last noList rs
  | @deliverList u midway rs =>
    have same (a : ArrayName) : u.arrayOf a = s.arrayOf a := congrArg (readArray · a) midway.arrays
    refine .inr ⟨rs, congrArg (· ++ _) midway.responses, fun a => ?_⟩
    have filled := arrayOf_fillArray u rs a
    simp only [State.array, same, midway.target] at filled
    exact filled
  | stuck midway phase =>
    refine .inl ⟨fun a => congrArg (readArray · a) midway.arrays, fun rs eq => ?_⟩
    rw [midway.responses] at eq
    exact absurd (List.append_right_eq_self.1 eq.symm) (List.cons_ne_nil _ _)

theorem entry_fill (a : ObjArray) (rs : List ObjectReading) (k : Fin 4) :
    (a.fill rs).entry k = (rs[k.val]?.map (writeReading (a.entry k))).getD (a.entry k) := by
  match k with
  | 0 | 1 | 2 | 3 => rfl

theorem entry_fill_of_lt {a : ObjArray} {rs : List ObjectReading} {k : Fin 4} (h : k.val < rs.length) :
    (a.fill rs).entry k = writeReading (a.entry k) rs[k.val] := by
  rw [entry_fill, List.getElem?_eq_getElem h]
  rfl

theorem entry_fill_of_le {a : ObjArray} {rs : List ObjectReading} {k : Fin 4} (h : rs.length ≤ k.val) :
    (a.fill rs).entry k = a.entry k := by
  rw [entry_fill, List.getElem?_eq_none h]
  rfl

/-- Settles O14: a response with a list is given by an operation that filled the named array with it. -/
theorem callersArrayFilledInPlace : Obligations.CallersArrayFilledInPlace := by
  unfold Obligations.CallersArrayFilledInPlace
  intro i s t rs k run answered
  obtain ⟨-, noList⟩ | ⟨rs', answered', arrays⟩ := (exec_ends run).arrays_cases
  · exact absurd answered (noList rs)
  · obtain rfl : rs' = rs := by simpa using answered'.symm.trans answered
    have filled : t.arrayOf s.target = (s.arrayOf s.target).fill rs' := (arrays _).trans (if_pos rfl)
    refine ⟨fun h => ?_, fun h => ?_, fun a other => (arrays a).trans (if_neg other)⟩
    · rw [filled, entry_fill_of_lt h]
      rfl
    · rw [filled, entry_fill_of_le h]

/-- Settles O57: an array that changed is the one filled. -/
theorem arrayWrittenOnlyOnOk : Obligations.ArrayWrittenOnlyOnOk := by
  unfold Obligations.ArrayWrittenOnlyOnOk
  intro i s t a run changed
  obtain ⟨same, -⟩ | ⟨rs, answered, arrays⟩ := (exec_ends run).arrays_cases
  · exact absurd (same a) changed
  · obtain rfl : a = s.target := by
      by_contra other
      exact changed ((arrays a).trans (if_neg other))
    exact ⟨rfl, rs, answered, (arrays _).trans (if_pos rfl)⟩

/-! ## Operations with a next step -/

/-- A check of the operands that refuses decides whether there is a next step. -/
theorem exists_next_ite_iff {q : Prop} [Decidable q] {a : State} {r : Refusal} :
    (∃ t, (if q then .next a else .refused r : Host.Outcome State Fault Refusal) = .next t) ↔ q := by
  by_cases h : q <;> simp [h]

/-- A check of the operands that rejects does not. -/
theorem exists_next_ite {q : Prop} [Decidable q] {a b : State} :
    ∃ t, (if q then .next a else .next b : Host.Outcome State Fault Refusal) = .next t := by
  by_cases h : q <;> simp [h]

theorem exists_next_packObjectRequest (id : Word16) (s : State) : ∃ t, exec (.packObjectRequest id) s = .next t := by
  by_cases h : 0 < id.toInt
  · exact ⟨_, exec_packObjectRequest_of_pos h⟩
  · exact ⟨_, exec_packObjectRequest_of_nonpos (not_lt.1 h)⟩

theorem exists_next_getObjects_iff (p : Port) (id : Word16) (m : Nat) (s : State) :
    (∃ t, exec (.getObjects p id m) s = .next t) ↔ id.toInt ≤ 0 ∨ m ≠ 0 := by
  by_cases nonpos : id.toInt ≤ 0
  · exact iff_of_true ⟨_, exec_getObjects_of_nonpos nonpos⟩ (.inl nonpos)
  · simp only [exec, execGetObjects, packObjectRequest_of_pos nonpos, nonpos, false_or]
    by_cases hm : m = 0 <;> simp [hm]

/-- Whether an operation has a next step, by its operands. -/
theorem exists_next_iff_runs (i : Instr) (s : State) : (∃ t, exec i s = .next t) ↔ runs i = true := by
  cases i with
  | packObjectRequest id => exact iff_of_true (exists_next_packObjectRequest id s) rfl
  | unpack32le b | decodeByte b | decodeWbRgb b | decodeLedGet b | decodeWbMode b | decodeLedMode b =>
    exact exists_next_ite_iff.trans (by simp [runs, Instr.wellFormed])
  | decodeObjectList b m id => exact exists_next_ite_iff.trans (by simp [runs, Instr.wellFormed, recLen])
  | decodeSignature b => exact exists_next_ite_iff.trans (by simp [runs, Instr.wellFormed, sigFrameLen])
  | decodeSignaturePayload b id => exact exists_next_ite_iff.trans (by simp [runs, Instr.wellFormed, sigPayloadLen])
  | getObjects p id m => exact (exists_next_getObjects_iff p id m s).trans (by simp [runs, Instr.wellFormed])
  | setSignature p sig => exact iff_of_true exists_next_ite rfl
  | getSignature p id => exact iff_of_true exists_next_ite rfl
  | setBrightness p v => exact exists_next_ite_iff.trans (by simp [runs, Instr.wellFormed, brightMax])
  | _ => exact iff_of_true ⟨_, rfl⟩ rfl

/-- Settles O53: the conditions of `runs` are those of the operations' own checks. -/
theorem nextStepDependsOnOperandsAlone : Obligations.NextStepDependsOnOperandsAlone := by
  unfold Obligations.NextStepDependsOnOperandsAlone
  exact exists_next_iff_runs

/-! ## Runs -/

theorem exec_requests (run : exec i s = .next t) : t.requests = s.requests :=
  exec_keeps (P := fun u => u.requests = s.requests) rfl (fun _ _ h => h) (fun _ _ _ _ h => h) (fun _ _ h => h)
    (fun _ => rfl) (fun _ _ h => h) (fun _ _ => rfl) run

theorem run_succ_of_next (n : Nat) (h : step s = .next t) : Sys2Proof.core.run (n + 1) s = Sys2Proof.core.run n t := by
  have unrolled : Sys2Proof.core.step s = .next t := h
  simp only [Host.Core.run, unrolled]

theorem run_succ_of_fault {r : Fault} (n : Nat) (h : step s = .fault r) : Sys2Proof.core.run (n + 1) s = .fault r := by
  have unrolled : Sys2Proof.core.step s = .fault r := h
  simp only [Host.Core.run, unrolled]

/-- A step on a request that decodes to an operation with a next step takes the request, and delivers one response or leaves the
operation stuck. -/
theorem step_of_valid_request {r : HostRequest} {rest : List HostRequest} (idle : s.ph = none)
    (presented : s.requests = r :: rest) (valid : ∃ i, decode r.image = .ok i ∧ runs i = true) :
    ∃ t, step s = .next t ∧ t.requests = rest ∧
      ((t.ph = none ∧ t.responses.length = s.responses.length + 1) ∨
        ∃ k, t.ph = some k ∧ t.responses.length = s.responses.length) := by
  obtain ⟨i, decoded, hi⟩ := valid
  obtain ⟨t, run⟩ := (exists_next_iff_runs i { s with requests := rest, target := r.array }).2 hi
  refine ⟨t, (step_of_decoded idle presented decoded).trans run, exec_requests run, ?_⟩
  obtain ⟨ph, x, answered⟩ | ⟨k, ph, same⟩ := (exec_ends run).oneResponseOrStuck idle
  · exact .inl ⟨ph, by simp [answered]⟩
  · exact .inr ⟨k, ph, by rw [same]⟩

/-- How a run of the `n` requests presented in `s` ends: all answered, the last one stuck, or a fault after an earlier one got
stuck. -/
inductive RunEnds (s : State) (n : Nat) : Host.Outcome State Fault Refusal → Prop where
  | answered {t : State} (taken : t.requests = []) (ph : t.ph = none)
      (count : t.responses.length = s.responses.length + n) : RunEnds s n (.next t)
  | stuck {t : State} {k : Phase} (taken : t.requests = []) (ph : t.ph = some k)
      (count : t.responses.length + 1 = s.responses.length + n) : RunEnds s n (.next t)
  | fault {r : Fault} {m : Nat} {t : State} {k : Phase} (early : m < n) (reached : Sys2Proof.core.run m s = .next t)
      (ph : t.ph = some k) (count : t.responses.length + 1 = s.responses.length + m) : RunEnds s n (.fault r)

/-- A run whose first step delivers a response ends as the run after it does. -/
theorem RunEnds.of_step {n : Nat} {o : Host.Outcome State Fault Refusal} (h : step s = .next t)
    (one : t.responses.length = s.responses.length + 1) (ends : RunEnds t n o) : RunEnds s (n + 1) o := by
  cases ends with
  | answered taken ph count => exact .answered taken ph (by omega)
  | stuck taken ph count => exact .stuck taken ph (by omega)
  | fault early reached ph count =>
    exact .fault (Nat.succ_lt_succ early) ((run_succ_of_next _ h).trans reached) ph (by omega)

theorem run_ends {rs : List HostRequest} (idle : s.ph = none) (presented : s.requests = rs)
    (valid : ∀ r ∈ rs, ∃ i, decode r.image = .ok i ∧ runs i = true) :
    RunEnds s rs.length (Sys2Proof.core.run rs.length s) := by
  induction rs generalizing s with
  | nil => exact .answered presented idle rfl
  | cons r rest ih =>
    obtain ⟨t, taken, left, ending⟩ := step_of_valid_request idle presented (valid r List.mem_cons_self)
    rw [List.length_cons, run_succ_of_next _ taken]
    obtain ⟨ph, one⟩ | ⟨k, ph, unanswered⟩ := ending
    · exact (ih ph left fun r' mem => valid r' (List.mem_cons_of_mem r mem)).of_step taken one
    · cases rest with
      | nil => exact .stuck left ph (by rw [unanswered]; rfl)
      | cons r' rest =>
        rw [List.length_cons, run_succ_of_fault _ (step_of_stuck ph)]
        exact .fault (m := 1) (by omega) (run_succ_of_next 0 taken) ph (by rw [unanswered])

/-- Settles O60: the run of the requests presented ends in one of the three ways. -/
theorem runAnswersEveryRequest : Obligations.RunAnswersEveryRequest := by
  unfold Obligations.RunAnswersEveryRequest
  intro s idle valid
  have ends := run_ends idle rfl valid
  generalize Sys2Proof.core.run s.requests.length s = o at ends ⊢
  cases ends with
  | answered taken ph count => exact ⟨taken, .inl ⟨ph, count⟩⟩
  | stuck taken ph count => exact ⟨taken, .inr ⟨_, ph, count⟩⟩
  | fault early reached ph count => exact ⟨_, _, _, early, reached, ph, count⟩

end Sys2Proof.Machine

/-! PROOF of O47, O58 and O59 (the register-array double, R54, R63; log 9). An operation's calls are those it can make, and
every cell outside the bytes they write reads as before (`exec_madeCalls`); on the double a frame written is read back byte by
byte. -/

namespace Sys2Proof.Machine

variable {s t : State} {i : Instr} {c : Call} {p : Port} {es : List Event}

/-! ## Cells outside what is written -/

/-- The cell `x` holds none of the bytes that the calls `es` write. -/
def Outside (es : List Event) (x : Nat) : Prop :=
  ∀ (p : Port) (reg : Byte) (bytes : List Byte), Event.write p reg bytes ∈ es →
    ∀ k < bytes.length, x ≠ cellAddr p (reg + BitVec.ofNat 8 k)

theorem read_memoryAfter_of_outside {d : Bool} {m : List Host.Cell} {a : Answer} {x : Nat} {answered : Option (List Byte)}
    (h : Outside [c.event answered] x) : Memory.read (memoryAfter d m c a) x = Memory.read m x := by
  unfold memoryAfter
  split
  case h_1 p reg bytes _ =>
    split
    · exact Memory.read_writeBytes_other bytes m p reg x (h p reg bytes List.mem_cons_self)
    · rfl
  case h_2 => rfl

/-- From `s` to `u` an operation `i` made only calls it can make, and changed no cell outside what they write. -/
def MadeCalls (s : State) (i : Instr) (u : State) : Prop :=
  ∃ es : List Event, u.trace = s.trace ++ es ∧ (∀ e ∈ es, ∃ c a, CallOf s i c ∧ e = c.event a) ∧
    ∀ x, Outside es x → Memory.read u.memory x = Memory.read s.memory x

theorem MadeCalls.start (s : State) (i : Instr) : MadeCalls s i s := ⟨[], by simp, by simp, fun _ _ => rfl⟩

theorem MadeCalls.afterCall {u : State} (h : MadeCalls s i u) (k : Phase) (call : CallOf s i c) (a : Answer) :
    MadeCalls s i ((u.enter k).afterCall c a) := by
  obtain ⟨es, grown, made, kept⟩ := h
  refine ⟨es ++ [c.event a.bytes?], by simp [grown], ?_, fun x outside => ?_⟩
  · intro e mem
    obtain mem | rfl := (List.mem_append.1 mem).imp_right List.mem_singleton.1
    · exact made e mem
    · exact ⟨c, _, call, rfl⟩
  · rw [State.afterCall_memory, read_memoryAfter_of_outside (answered := a.bytes?)]
    · exact kept x fun p reg bytes mem => outside p reg bytes (List.mem_append_left _ mem)
    · exact fun p reg bytes mem => outside p reg bytes (List.mem_append_right _ mem)

/-- What every operation calls and leaves in the register array. -/
theorem exec_madeCalls (run : exec i s = .next t) : MadeCalls s i t :=
  exec_keeps (P := MadeCalls s i) (.start s i) (fun _ _ h => h) (fun _ k _ call h => h.afterCall k call _) (fun _ _ h => h)
    (fun _ => .start s i) (fun _ _ h => h) (fun _ _ => .start s i) run

/-- Settles O47: the calls a session operation can make all name its port, and another port's cells lie outside them. -/
theorem onlyTheNamedPortIsTouched : Obligations.OnlyTheNamedPortIsTouched := by
  unfold Obligations.OnlyTheNamedPortIsTouched
  intro i s t p run named
  obtain ⟨es, grown, made, kept⟩ := exec_madeCalls run
  have ports : ∀ e ∈ es, e.port = p := by
    intro e mem
    obtain ⟨c, a, call, rfl⟩ := made e mem
    cases call
    case query => exact named.elim
    all_goals exact named
  refine ⟨⟨es, grown, ports⟩, fun q r other => kept _ fun p' reg bytes mem k _ same => other ?_⟩
  exact (cellAddr_inj same).1.trans (ports _ mem)

/-- Settles O58: a frame of at most 37 bytes lies within the 256 registers of its port, and an operation changes only the cells
of the frames it writes. -/
theorem writtenBytesStandAtTheirRegisters : Obligations.WrittenBytesStandAtTheirRegisters := by
  unfold Obligations.WrittenBytesStandAtTheirRegisters
  constructor
  · intro s p reg bytes double short
    simp only [memoryAfter, double, if_true]
    exact ⟨fun k hk => Memory.read_writeBytes_same bytes s.memory p reg k (by omega) hk,
      fun a => Memory.read_writeBytes_other bytes s.memory p reg a⟩
  · intro i s t es run grown a outside
    obtain ⟨es', grown', -, kept⟩ := exec_madeCalls run
    obtain rfl : es' = es := List.append_cancel_left (grown'.symm.trans grown)
    exact kept a outside

/-! ## A frame read back -/

/-- Within a frame written, the bytes read from its register `off` on are its bytes from `off` on. -/
theorem readBytes_writeBytes {bs : List Byte} {off n : Nat} (m : List Host.Cell) (p : Port) (reg : Byte)
    (free : Nat → Byte) (short : bs.length ≤ 256) (within : off + n ≤ bs.length) :
    Memory.readBytes (Memory.writeBytes m p reg bs) p (reg + BitVec.ofNat 8 off) n free = (bs.drop off).take n := by
  refine List.ext_getElem (by simp [Memory.readBytes]; omega) fun j hj _ => ?_
  have hj : j < n := by simpa [Memory.readBytes] using hj
  have stored := Memory.read_writeBytes_same bs m p reg (off + j) short (by omega)
  rw [BitVec.ofNat_add, ← BitVec.add_assoc] at stored
  simp [Memory.readBytes, stored]

/-- With no script the double answers. -/
theorem answerTo_double (script : s.script = []) (double : s.double = true) (c : Call) :
    s.answerTo c = doubleAnswer s.memory s.draws c := by
  simp [State.answerTo, State.unscriptedAnswer, script, double]

/-- On the double, with no script, bytes of a frame written are answered to a read within it. -/
theorem answerTo_read_written {m : List Host.Cell} {bs : List Byte} {reg r : Byte} {off n : Nat}
    (script : s.script = []) (double : s.double = true) (memory : s.memory = Memory.writeBytes m p reg bs)
    (start : r = reg + BitVec.ofNat 8 off) (short : bs.length ≤ 256) (within : off + n ≤ bs.length) :
    s.answerTo (.read p r n) = .ok ((bs.drop off).take n) := by
  rw [answerTo_double script double, doubleAnswer, memory, start, readBytes_writeBytes m p reg _ short within]

/-- On the double, with no script, `setLedColor` stores the frame LEDSET from 0xE7 on. -/
theorem exec_setLedColor_double {col : RgbColor} (script : s.script = []) (double : s.double = true)
    (run : exec (.setLedColor p col) s = .next t) :
    t.script = [] ∧ t.double = true ∧ t.memory = Memory.writeBytes s.memory p 0xE7
      [clampBrightness col.brightness, col.red, col.green, col.blue, s.ledCode.manual] := by
  rw [exec_setLedColor, runSet_of_ok (answerTo_double script double _)] at run
  obtain rfl := Host.Outcome.next.inj run
  exact ⟨by simp [State.ended, script], double, if_pos double⟩

/-- Settles O59: of the frame stored the first four bytes are a frame LEDGET, and the last, at 0xEB, is the LED mode. -/
theorem doubleReturnsTheLedColourSet : Obligations.DoubleReturnsTheLedColourSet := by
  unfold Obligations.DoubleReturnsTheLedColourSet
  intro s t p c script double run
  obtain ⟨script', double', memory⟩ := exec_setLedColor_double script double run
  have color : t.answerTo (.read p 0xE7 4) = .ok [clampBrightness c.brightness, c.red, c.green, c.blue] :=
    answerTo_read_written (off := 0) script' double' memory rfl (by simp) (by simp)
  have mode : t.answerTo (.read p 0xEB 1) = .ok [s.ledCode.manual] :=
    answerTo_read_written (off := 4) script' double' memory rfl (by simp) (by simp)
  refine ⟨clampBrightness c.brightness, clampBrightness_toNat _, ?_, mode⟩
  rw [exec_getLedColor, runGet_of_ok _ color]
  rfl

end Sys2Proof.Machine
